-- ==== Sys2Proof/Word.lean ====
section
/-! DEFINITION. The word, the byte and the block of the AES core (00_scope.md R8, R10, R12; 40_primitives.md R68).
Only the types stand here; the byte-order helpers are in Machine/Operands.lean. -/

namespace Sys2Proof

/-- A byte: 8 bits (R11, R62). -/
abbrev Byte := BitVec 8

/-- A word: 32 bits (R10); the width of every host-visible register. -/
abbrev Word := BitVec 32

/-- One column of the 4×4 byte state, row 0 first (R68). -/
structure Column where
  r0 : Byte
  r1 : Byte
  r2 : Byte
  r3 : Byte
deriving DecidableEq, Repr

/-- A block (R12): 16 bytes, held as the four columns of the state matrix of R68, so that byte `r + 4c` of the block
is row `r` of column `c`. A state and a block are one value. -/
structure Block where
  c0 : Column
  c1 : Column
  c2 : Column
  c3 : Column
deriving DecidableEq, Repr

/-- The all-zero block. -/
def Block.zero : Block := ⟨⟨0, 0, 0, 0⟩, ⟨0, 0, 0, 0⟩, ⟨0, 0, 0, 0⟩, ⟨0, 0, 0, 0⟩⟩

end Sys2Proof
end

