-- ==== Sys2Proof/Syntax.lean ====
section
/-! DEFINITION. The commands of the AES core: one constructor for each row of spec/opcode_table.json
(30_encoding.md R52, R56, R59). -/

namespace Sys2Proof

/-- A command. `keylen` is the mnemonic's operand of R59, a count of bytes; `Instr.wf` says which counts have an
encoding. -/
inductive Instr where
  /-- NOP (R92). -/
  | nop
  /-- EXPAND.ENC keylen (R84). -/
  | expandEnc (keylen : Nat)
  /-- EXPAND.DEC keylen (R85). -/
  | expandDec (keylen : Nat)
  /-- ENCRYPT (R90). -/
  | encrypt
  /-- DECRYPT (R91). -/
  | decrypt
  /-- CLEAR (R93). -/
  | clear
deriving DecidableEq, Repr

end Sys2Proof
end

