-- ==== Sys2Proof/WellFormed.lean ====
section
/-! DEFINITION. Which commands have an encoding (30_encoding.md R54, R59). -/

namespace Sys2Proof

/-- `<keylen>` is an integer in 0..255 and an assembler refuses a value outside that range (R59). The lengths that no
variant has (15, 17, ...) are well formed: they encode, and their meaning reports INVALID_KEY_LENGTH. -/
def Instr.wf : Instr → Bool
  | .nop => true
  | .expandEnc keylen => decide (keylen ≤ 255)
  | .expandDec keylen => decide (keylen ≤ 255)
  | .encrypt => true
  | .decrypt => true
  | .clear => true

end Sys2Proof
end

