-- ==== Sys2Proof/Decode.lean ====
section
/-! DEFINITION. The command word: its fields, the decoder (total on all words) and the encoder
(30_encoding.md R51, R55, R56, R59). -/

namespace Sys2Proof

/-- OP = v[3:0] (R51). -/
def fieldOp (v : Word) : BitVec 4 := v.extractLsb' 0 4

/-- DIR = v[4] (R51). -/
def fieldDir (v : Word) : BitVec 1 := v.extractLsb' 4 1

/-- RSVA = v[7:5] (R51). -/
def fieldRsva (v : Word) : BitVec 3 := v.extractLsb' 5 3

/-- KEYLEN = v[15:8] (R51). -/
def fieldKeylen (v : Word) : BitVec 8 := v.extractLsb' 8 8

/-- RSVB = v[31:16] (R51). -/
def fieldRsvb (v : Word) : BitVec 16 := v.extractLsb' 16 16

/-- v[31:4], the bits that every command but EXPAND must hold at zero (R55). -/
def fieldAboveOp (v : Word) : BitVec 28 := v.extractLsb' 4 28

/-- Why a word is illegal: the three cases of R57. The hardware reports one code for all of them. -/
inductive IllegalReason where
  /-- OP is in 0x5..0xF. -/
  | reservedOp
  /-- OP = 0x1 and RSVA or RSVB is not zero. -/
  | expandReservedBits
  /-- OP is not 0x1 and one of bits 31:4 is set. -/
  | strayBits
deriving DecidableEq, Repr

/-- What a command word decodes to (R55). -/
inductive Decoded where
  | instr (i : Instr)
  | illegal (why : IllegalReason)
deriving DecidableEq, Repr

/-- The command of a word whose bits 31:4 are zero, by OP (R52, R55). OP = 0x1 does not reach this table: `decode`
takes it before. -/
def decodeOp (op : BitVec 4) : Decoded :=
  if op = 0x0#4 then .instr .nop
  else if op = 0x2#4 then .instr .encrypt
  else if op = 0x3#4 then .instr .decrypt
  else if op = 0x4#4 then .instr .clear
  else .illegal .reservedOp

/-- The decode function of R55, in its order. -/
def decode (v : Word) : Decoded :=
  if fieldOp v = 0x1#4 then
    if fieldRsva v ≠ 0 ∨ fieldRsvb v ≠ 0 then .illegal .expandReservedBits
    else if fieldDir v = 0 then .instr (.expandEnc (fieldKeylen v).toNat)
    else .instr (.expandDec (fieldKeylen v).toNat)
  else if fieldAboveOp v ≠ 0 then .illegal .strayBits
  else decodeOp (fieldOp v)

/-- `zext_32(keylen[7:0]) << 8` (R59). -/
def encodeKeylen (keylen : Nat) : Word := (BitVec.ofNat 8 keylen).setWidth 32 <<< 8

/-- The command word of a mnemonic (R59). -/
def encode : Instr → Word
  | .nop => 0x00000000#32
  | .expandEnc keylen => 0x00000001#32 ||| encodeKeylen keylen
  | .expandDec keylen => 0x00000011#32 ||| encodeKeylen keylen
  | .encrypt => 0x00000002#32
  | .decrypt => 0x00000003#32
  | .clear => 0x00000004#32

/-- The assembler of R59: it refuses an operand outside 0..255. -/
def assemble (i : Instr) : Option Word := if i.wf then some (encode i) else none

/-- The command word the host's opcode table numbers as `w` with `nbits` bits: every bit above them is zero. -/
def tableWord (nbits w : Nat) : Word := BitVec.ofNat 32 (w % 2 ^ nbits)

/-- The instruction of a decoding, where there is one. -/
def Decoded.instr? : Decoded → Option Instr
  | .instr i => some i
  | .illegal _ => none

/-- The instruction the decoder reads from an opcode-table word; every command is one 32-bit word (R50). -/
def decodeTableWord (nbits w : Nat) : Option Instr := (decode (tableWord nbits w)).instr?

end Sys2Proof
end

