-- ==== Sys2Proof/Config.lean ====
section
/-! DEFINITION. What the platform fixes and what the spec leaves free: constants with no body, so that nothing can be
proved of their values. -/

namespace Sys2Proof

/-- Which multiple of 0x80 the platform puts the register aperture at: `BASE` is OPEN (R7, R34; log entry 9). -/
opaque Config.baseSlot : Nat

/-- The unspecified value the n-th host read made during reset returns (R112; log entry 5). -/
opaque Config.resetRead : Nat → Word

/-- What host temporary `t` holds before a host program's first write to it: temporaries are the host's own state and
the spec gives them no initial value (R60; log entry 18). -/
opaque Config.hostTemp : Nat → Word

end Sys2Proof
end

