-- ==== Sys2Proof/Machine/State.lean ====
section
/-! DEFINITION. The state of the AES core (10_state.md R13 to R33), the outside world that drives it (R34, R45, R117),
its state after reset (R33), and the reasons a step can stop. -/

namespace Sys2Proof.Machine

/-- A schedule's direction, STATUS.KDIR (R20): 0 Encrypt, 1 Decrypt. -/
inductive Direction where
  | encrypt
  | decrypt
deriving DecidableEq, Repr

/-- The held schedule's variant, STATUS.KSIZE (R21). `none` is 0b00. -/
inductive KSize where
  | none
  | aes128
  | aes192
  | aes256
deriving DecidableEq, Repr

/-- The result codes of R95. Codes 0x5..0xF are never written (R23), so the type leaves them out. -/
inductive ErrCode where
  | none
  | invalidKeyLength
  | directionMismatch
  | noSchedule
  | illegalCommand
deriving DecidableEq, Repr

/-- SNAP (R30): the accepted command word and the operands copied at acceptance. -/
structure Snap where
  /-- SNAP.CMD. -/
  cmd : Word
  /-- SNAP.KEY[0..7]. -/
  key : Vector Word 8
  /-- SNAP.DIN[0..3]. -/
  din : Vector Word 4
deriving DecidableEq, Repr

/-- ENG (R29) and SNAP (R30). SNAP has meaning only while ENG = BUSY, so the BUSY phase carries it and no rule can read
it while IDLE (log entry 7). -/
inductive Engine where
  | idle
  | busy (snap : Snap)
deriving DecidableEq, Repr

/-- The width of a host access, in bits (R37, R38). -/
inductive AccessSize where
  | b8
  | b16
  | b32
  | b64
deriving DecidableEq, Repr

/-- An aperture offset, 0x00..0x7F (R34). -/
abbrev Offset := Fin 128

/-- One host access to the aperture (R50): `BusRead(off)` or `BusWrite(off, v)` of R11, with the access's width. A
write of another width than 32 bits is refused whatever its data (R38); only its low 32 bits are represented. -/
inductive Access where
  | read (size : AccessSize) (off : Offset)
  | write (size : AccessSize) (off : Offset) (v : Word)
deriving DecidableEq, Repr

/-- An input of the core: host accesses and the reset input are the only ones (R34, R112). -/
inductive Input where
  | access (a : Access)
  | assertReset
  | releaseReset
deriving DecidableEq, Repr

/-- Whose step comes next in the one total order of R45: the outside world's next input, or the engine's. -/
inductive Turn where
  | input
  | engine
deriving DecidableEq, Repr

/-- The state of the core and, in its last five fields, of the world that drives it. CTRL, the reserved offsets and
the reserved STATUS bits have no storage (R16, R17, R36); STATUS.BUSY is `eng` (R18). -/
structure State where
  /-- KEY0..KEY7 (R24). -/
  key : Vector Word 8
  /-- DIN0..DIN3 (R25). -/
  din : Vector Word 4
  /-- DOUT0..DOUT3 (R26). -/
  dout : Vector Word 4
  /-- RK[0..14], the round-key store (R27). -/
  rk : Vector Block 15
  /-- STATUS.KV (R19). -/
  kv : Bool
  /-- STATUS.KDIR (R20). -/
  kdir : Direction
  /-- STATUS.KSIZE (R21). -/
  ksize : KSize
  /-- STATUS.OVR (R22). -/
  ovr : Bool
  /-- STATUS.ERR (R23). -/
  err : ErrCode
  /-- ENG and SNAP (R29, R30); STATUS.BUSY reads it (R18). -/
  eng : Engine
  /-- Whether the reset input is asserted (R112). -/
  inReset : Bool
  /-- The model's own: the inputs still to come, in the order the platform delivers them (R45, R46). -/
  inputs : List Input
  /-- The model's own: the draw of R117, which of the two moves next. -/
  turns : List Turn
  /-- The model's own: what the host's reads have returned, newest first. -/
  reads : List Word
  /-- The model's own: how many unspecified values have been drawn (R112). -/
  draws : Nat
deriving DecidableEq, Repr

/-- Why a step stops with a fault. -/
inductive Fault where
  /-- The host made an access that is not admitted (R38), raised by the step that takes that access; nothing of the
  core changes. Safe: the run stops where the hardware goes on with other accesses. -/
  | busError
  /-- A command's meaning was asked for while ENG = IDLE, when SNAP holds nothing (R30, 93_implementation_defined.md:
  'stuck' if read), raised by every meaning. Safe: `step` never asks for one then. -/
  | noCommandInFlight
  /-- ENCRYPT or DECRYPT with KV = 1 and KSIZE = 0b00: R21 gives no round count, raised by the block commands. Safe:
  no reachable state has those values (R31). -/
  | noRoundCount
deriving DecidableEq, Repr

/-- Why the model has no meaning for an instruction. -/
inductive Refusal where
  /-- The instruction has no meaning yet, raised by exec's arm. Safe. No arm raises it now. -/
  | notModelled (mnemonic : String)
deriving DecidableEq, Repr

/-- The machine right after reset (R33, R112), reset released: idle, no schedule, every register zero; no input has
been given, and nothing is in flight. The last four fields are the model's own (log entry 12). -/
def State.reset : State where
  key := Vector.replicate 8 0
  din := Vector.replicate 4 0
  dout := Vector.replicate 4 0
  rk := Vector.replicate 15 Block.zero
  kv := false
  kdir := .encrypt
  ksize := .none
  ovr := false
  err := .none
  eng := .idle
  inReset := false
  inputs := []
  turns := []
  reads := []
  draws := 0

end Sys2Proof.Machine
end

