-- ==== Sys2Proof/Machine/Flags.lean ====
section
/-! DEFINITION. STATUS: the bits of each field, the word a host reads (10_state.md R17), and the round count read from
KSIZE (R21). -/

namespace Sys2Proof.Machine

/-- The bit of a flag. -/
def flagBit (b : Bool) : BitVec 1 := BitVec.ofBool b

/-- STATUS.KDIR: 0 Encrypt, 1 Decrypt (R20). -/
def Direction.code : Direction → BitVec 1
  | .encrypt => 0#1
  | .decrypt => 1#1

/-- STATUS.KSIZE: 0b00 none, 0b01 AES-128, 0b10 AES-192, 0b11 AES-256 (R21). -/
def KSize.code : KSize → BitVec 2
  | .none => 0b00#2
  | .aes128 => 0b01#2
  | .aes192 => 0b10#2
  | .aes256 => 0b11#2

/-- STATUS.ERR: the numeric codes of R95. -/
def ErrCode.code : ErrCode → BitVec 4
  | .none => 0x0#4
  | .invalidKeyLength => 0x1#4
  | .directionMismatch => 0x2#4
  | .noSchedule => 0x3#4
  | .illegalCommand => 0x4#4

/-- STATUS.BUSY reads 1 exactly when ENG = BUSY (R18). -/
def Engine.isBusy : Engine → Bool
  | .idle => false
  | .busy _ => true

/-- The value of STATUS (R17), its fields from bit 31 down to bit 0; bits 31:12 and 6:5 read 0. -/
def State.statusWord (s : State) : Word :=
  0#20 ++ ErrCode.code s.err ++ flagBit s.ovr ++ 0#2 ++ KSize.code s.ksize ++ Direction.code s.kdir ++
    flagBit s.kv ++ flagBit (Engine.isBusy s.eng)

/-- STATUS.OVR is bit 7, the one bit of STATUS a host write can change (R17, R22). -/
def ovrBit (v : Word) : Bool := v.getLsbD 7

/-- NR(KSIZE), the round count of the held schedule; 0b00 gives none (R21). -/
def roundCount : KSize → Option Nat
  | .none => Option.none
  | .aes128 => some 10
  | .aes192 => some 12
  | .aes256 => some 14

end Sys2Proof.Machine
end

