-- ==== Sys2Proof/Machine/Operands.lean ====
section
/-! DEFINITION. Byte order and operand forms: words and byte strings (00_scope.md R9, R10), blocks and their state
mapping (40_primitives.md R68), the register packing (20_memory.md R42, R43), the KEYLEN operand (41_key_schedule.md
R83) and the operands a command takes from SNAP (R30). -/

namespace Sys2Proof.Machine

/-- `word(b, j) = {b[4j], b[4j+1], b[4j+2], b[4j+3]}` (R10). A byte string is never read past its end by a rule. -/
def word (b : List Byte) (j : Nat) : Word :=
  b.getD (4 * j) 0 ++ b.getD (4 * j + 1) 0 ++ b.getD (4 * j + 2) 0 ++ b.getD (4 * j + 3) 0

/-- `bytes(w)`: the four bytes of `w` from most significant to least (R10). -/
def bytes (w : Word) : List Byte :=
  [w.extractLsb' 24 8, w.extractLsb' 16 8, w.extractLsb' 8 8, w.extractLsb' 0 8]

/-- `bytes(w0) ++ bytes(w1) ++ ...`, as R84 and R90 write it. -/
def bytesOf (ws : List Word) : List Byte := ws.flatMap bytes

end Sys2Proof.Machine

namespace Sys2Proof

/-- Row `r` of a column (R68). -/
def Column.row (c : Column) : Fin 4 → Byte
  | 0 => c.r0
  | 1 => c.r1
  | 2 => c.r2
  | 3 => c.r3

/-- Column `c` of a block (R68). -/
def Block.col (s : Block) : Fin 4 → Column
  | 0 => s.c0
  | 1 => s.c1
  | 2 => s.c2
  | 3 => s.c3

/-- `s[r][c]` (R68). -/
def Block.byte (s : Block) (r c : Fin 4) : Byte := (s.col c).row r

/-- The block whose byte `s[r][c]` is `f r c`. -/
def Block.build (f : Fin 4 → Fin 4 → Byte) : Block :=
  ⟨⟨f 0 0, f 1 0, f 2 0, f 3 0⟩, ⟨f 0 1, f 1 1, f 2 1, f 3 1⟩,
    ⟨f 0 2, f 1 2, f 2 2, f 3 2⟩, ⟨f 0 3, f 1 3, f 2 3, f 3 3⟩⟩

/-- The block whose column `c` is `f` of column `c`: the shape of a column transform (R74). -/
def Block.mapCols (s : Block) (f : Column → Column) : Block := ⟨f s.c0, f s.c1, f s.c2, f s.c3⟩

end Sys2Proof

namespace Sys2Proof.Machine

/-- A 16-byte string enters the state column-major: `s[r][c] = in[r + 4c]` (R68). -/
def blockOfBytes (b : List Byte) : Block := Block.build fun r c => b.getD (r.val + 4 * c.val) 0

/-- ... and leaves it the same way: `out[r + 4c] = s[r][c]` (R68). -/
def bytesOfBlock (s : Block) : List Byte :=
  [s.c0.r0, s.c0.r1, s.c0.r2, s.c0.r3, s.c1.r0, s.c1.r1, s.c1.r2, s.c1.r3,
    s.c2.r0, s.c2.r1, s.c2.r2, s.c2.r3, s.c3.r0, s.c3.r1, s.c3.r2, s.c3.r3]

/-- The block held in four words, DIN0..DIN3 (R43). -/
def blockOfWords (ws : Vector Word 4) : Block := blockOfBytes (bytesOf ws.toList)

/-- `word(out, j)` for j = 0..3: the four words DOUT0..DOUT3 of a block (R43). -/
def wordsOfBlock (s : Block) : Vector Word 4 :=
  #v[word (bytesOfBlock s) 0, word (bytesOfBlock s) 1, word (bytesOfBlock s) 2, word (bytesOfBlock s) 3]

/-- A key size of R3. -/
inductive Variant where
  | aes128
  | aes192
  | aes256
deriving DecidableEq, Repr

/-- Nk, the number of 32-bit key words (R3). -/
def Variant.nk : Variant → Nat
  | .aes128 => 4
  | .aes192 => 6
  | .aes256 => 8

/-- N, the number of rounds (R3). -/
def Variant.rounds : Variant → Nat
  | .aes128 => 10
  | .aes192 => 12
  | .aes256 => 14

/-- The KSIZE value an EXPAND of the variant leaves (R83). -/
def Variant.ksize : Variant → KSize
  | .aes128 => .aes128
  | .aes192 => .aes192
  | .aes256 => .aes256

/-- The KEYLEN operand: 16, 24 and 32 select a variant, any other value is INVALID (R83). -/
def variant (keylen : Nat) : Option Variant :=
  if keylen = 16 then some .aes128
  else if keylen = 24 then some .aes192
  else if keylen = 32 then some .aes256
  else none

/-- The raw key an EXPAND of Nk words reads: `bytes(SNAP.KEY[0]) ++ ... ++ bytes(SNAP.KEY[Nk-1])`; the rest of KEY is
ignored (R84). -/
def Snap.rawKey (snap : Snap) (v : Variant) : List Byte := bytesOf (snap.key.toList.take v.nk)

/-- The input block of ENCRYPT and DECRYPT: `bytes(SNAP.DIN[0]) ++ ... ++ bytes(SNAP.DIN[3])` (R90). -/
def Snap.block (snap : Snap) : Block := blockOfWords snap.din

end Sys2Proof.Machine
end

