-- ==== Sys2Proof/Machine/Ops.lean ====
section
/-! DEFINITION. The named operations over the core's state: what every completion does, raising an error, the round-key
store, the register aperture (20_memory.md R34 to R40), the command protocol (70_reset_and_hazards.md R115, R118) and
reset (R112). The core has no memory (R11, R34); its one address space is the aperture. -/

namespace Sys2Proof.Machine

/-- What a step of this machine answers. -/
abbrev Result := Host.Outcome State Fault Refusal

/-! ### Completion -/

/-- What every completion does: the result code goes to STATUS.ERR (R23) and ENG to IDLE, which clears BUSY (R116). -/
def State.finish (e : ErrCode) (s : State) : State := { s with err := e, eng := .idle }

/-- `raise Error(code)` (R11, R96): the completion writes the code and clears BUSY, and nothing else. The core has no
trap: no state is saved and no control is transferred (R101). -/
def State.raiseError (e : ErrCode) (s : State) : State := State.finish e s

/-- Run a command's completion `k` from SNAP. It exists only while ENG = BUSY (R116); SNAP may not be read while IDLE
(R30), so the meaning is then stuck. -/
def inFlight (s : State) (k : Snap → Result) : Result :=
  match s.eng with
  | .idle => .fault .noCommandInFlight
  | .busy snap => k snap

/-- The completion of an illegal word: ERR <- 0x4 and nothing else (R57). -/
def completeIllegal (s : State) : Result := inFlight s fun _ => .next (State.raiseError .illegalCommand s)

/-! ### The round-key store -/

/-- `RK[r]` (R27). Entries above 14 do not exist, and no rule reads one, since N ≤ 14. -/
def State.roundKey (s : State) (r : Nat) : Block := s.rk.toList.getD r Block.zero

/-- The store's contents, entry by entry. -/
def roundKeyStore (f : Nat → Block) : Vector Block 15 :=
  #v[f 0, f 1, f 2, f 3, f 4, f 5, f 6, f 7, f 8, f 9, f 10, f 11, f 12, f 13, f 14]

/-- `RK[r] <- k r` for r in 0..n and `RK[r] <- 0` for r in n+1..14 (R84). -/
def scheduleStore (n : Nat) (k : Nat → Block) : Vector Block 15 :=
  roundKeyStore fun r => if r ≤ n then k r else Block.zero

/-- The writes of a successful EXPAND (R84, R85): RK, KV, KDIR, KSIZE. -/
def State.holdSchedule (v : Variant) (d : Direction) (k : Nat → Block) (s : State) : State :=
  { s with rk := scheduleStore v.rounds k, kv := true, kdir := d, ksize := v.ksize }

/-- The writes of CLEAR (R93), OVR left. -/
def State.erase (s : State) : State :=
  { s with
    key := Vector.replicate 8 0, din := Vector.replicate 4 0, dout := Vector.replicate 4 0,
    rk := Vector.replicate 15 Block.zero, kv := false, kdir := .encrypt, ksize := .none }

/-! ### The register aperture -/

/-- The register at a slot of the aperture map (R35). -/
inductive Slot where
  | ctrl
  | status
  | reserved
  | key (j : Fin 8)
  | din (j : Fin 4)
  | dout (j : Fin 4)
deriving DecidableEq, Repr

/-- The aperture map (R35), at the offsets an admitted access can name. -/
def slotAt (off : Offset) : Slot :=
  if off.val = 0x00 then .ctrl
  else if off.val = 0x04 then .status
  else if off.val < 0x10 then .reserved
  else if off.val < 0x30 then .key (Fin.ofNat 8 ((off.val - 0x10) / 4))
  else if off.val < 0x40 then .din (Fin.ofNat 4 ((off.val - 0x30) / 4))
  else if off.val < 0x50 then .dout (Fin.ofNat 4 ((off.val - 0x40) / 4))
  else .reserved

/-- The host address of the aperture: a multiple of 0x80 (R34). -/
def base : Nat := 0x80 * Config.baseSlot

/-- The host address of an aperture offset (R34). -/
def hostAddress (off : Offset) : Nat := base + off.val

/-- The aperture offset of a host address: the address minus `BASE` (R34). An address outside the aperture is not the
core's, and no access to it reaches the core. -/
def offsetOf (addr : Nat) : Option Offset :=
  if h : base ≤ addr ∧ addr < base + 0x80 then some ⟨addr - base, by omega⟩ else none

/-- The width of an access. -/
def Access.size : Access → AccessSize
  | .read size _ => size
  | .write size _ _ => size

/-- The offset of an access. -/
def Access.off : Access → Offset
  | .read _ off => off
  | .write _ off _ => off

/-- Admitted accesses are 32 bits wide, at offsets that are multiples of 4 (R37). -/
def Access.admitted (a : Access) : Bool := decide (a.size = .b32) && decide (a.off.val % 4 = 0)

/-- What an admitted read returns: CTRL, KEY and the reserved slots read 0 (R16, R24, R36). Reads have no side
effects (R40). -/
def State.busRead (s : State) (off : Offset) : Word :=
  match slotAt off with
  | .ctrl => 0
  | .status => State.statusWord s
  | .reserved => 0
  | .key _ => 0
  | .din j => s.din[j]
  | .dout j => s.dout[j]

/-- Acceptance (R115): the word, KEY and DIN are copied into SNAP and ENG goes to BUSY. The word is not decoded. -/
def State.accept (v : Word) (s : State) : State :=
  { s with eng := .busy { cmd := v, key := s.key, din := s.din } }

/-- A command offered while BUSY is dropped: OVR <- 1, nothing else (R118). -/
def State.drop (s : State) : State := { s with ovr := true }

/-- A write of `v` to CTRL offers command word `v` (R16). -/
def State.offer (v : Word) (s : State) : State :=
  match s.eng with
  | .idle => State.accept v s
  | .busy _ => State.drop s

/-- An admitted write (R16, R22, R24, R25, R26, R36, R40): CTRL offers a command; STATUS clears OVR where bit 7 is 1;
KEY and DIN store; DOUT and the reserved slots ignore it. -/
def State.busWrite (s : State) (off : Offset) (v : Word) : State :=
  match slotAt off with
  | .ctrl => State.offer v s
  | .status => if ovrBit v then { s with ovr := false } else s
  | .reserved => s
  | .key j => { s with key := s.key.set j v }
  | .din j => { s with din := s.din.set j v }
  | .dout _ => s

/-- One host access out of reset (R37): a read's value goes to the host. -/
def State.perform (s : State) : Access → State
  | .read _ off => { s with reads := State.busRead s off :: s.reads }
  | .write _ off v => State.busWrite s off v

/-- One host access while reset is asserted (R112): a write has no effect, a read returns an unspecified value, drawn
from the free values of Config. -/
def State.performInReset (s : State) : Access → State
  | .read _ _ => { s with reads := Config.resetRead s.draws :: s.reads, draws := s.draws + 1 }
  | .write _ _ _ => s

/-! ### Reset -/

/-- Reset asserted (R112): every piece of state takes its value of R33, so a command in flight is abandoned. The
world that drives the core is not the core's state and stays. -/
def State.assertReset (s : State) : State :=
  { State.reset with
    inReset := true, inputs := s.inputs, turns := s.turns, reads := s.reads, draws := s.draws }

/-- Reset released (R112). -/
def State.releaseReset (s : State) : State := { s with inReset := false }

/-- The core meets one input. An access that is not admitted is refused with a bus error and changes nothing (R38),
in reset too (log entry 6). -/
def State.input (s : State) : Input → Result
  | .assertReset => .next (State.assertReset s)
  | .releaseReset => .next (State.releaseReset s)
  | .access a =>
    if a.admitted then
      if s.inReset then .next (State.performInReset s a) else .next (State.perform s a)
    else .fault .busError

/-- The outside world's turn: the next input, or none has come and the core waits (R113). -/
def inputTurn (s : State) : Result :=
  match s.inputs with
  | [] => .next s
  | i :: rest => State.input { s with inputs := rest } i

end Sys2Proof.Machine
end

