-- ==== Sys2Proof/Machine/Rounds.lean ====
section
/-! DEFINITION. The round transforms (40_primitives.md R69 to R75) and the word functions of the key expansion (R77,
R78): pure functions of their arguments. -/

namespace Sys2Proof.Machine

/-- AddRoundKey: `s'[r][c] = s[r][c] XOR k[r + 4c]` (R69). -/
def addRoundKey (s k : Block) : Block := Block.build fun r c => s.byte r c ^^^ k.byte r c

/-- SubBytes: `s'[r][c] = SBOX[s[r][c]]` (R70). -/
def subBytes (s : Block) : Block := Block.build fun r c => sbox (s.byte r c)

/-- InvSubBytes: `s'[r][c] = INV_SBOX[s[r][c]]` (R71). -/
def invSubBytes (s : Block) : Block := Block.build fun r c => invSbox (s.byte r c)

/-- ShiftRows: `s'[r][c] = s[r][(c + r) mod 4]` (R72); the sum of two `Fin 4` is taken mod 4. -/
def shiftRows (s : Block) : Block := Block.build fun r c => s.byte r (c + r)

/-- InvShiftRows: `s'[r][c] = s[r][(c - r) mod 4]` (R73); the difference of two `Fin 4` is taken mod 4. -/
def invShiftRows (s : Block) : Block := Block.build fun r c => s.byte r (c - r)

/-- MixColumns on one column: the matrix {02,03,01,01; 01,02,03,01; 01,01,02,03; 03,01,01,02} (R74). -/
def mixColumn (s : Column) : Column where
  r0 := gmul 0x02 s.r0 ^^^ gmul 0x03 s.r1 ^^^ s.r2 ^^^ s.r3
  r1 := s.r0 ^^^ gmul 0x02 s.r1 ^^^ gmul 0x03 s.r2 ^^^ s.r3
  r2 := s.r0 ^^^ s.r1 ^^^ gmul 0x02 s.r2 ^^^ gmul 0x03 s.r3
  r3 := gmul 0x03 s.r0 ^^^ s.r1 ^^^ s.r2 ^^^ gmul 0x02 s.r3

/-- InvMixColumns on one column: the matrix {0e,0b,0d,09; 09,0e,0b,0d; 0d,09,0e,0b; 0b,0d,09,0e} (R75). -/
def invMixColumn (s : Column) : Column where
  r0 := gmul 0x0e s.r0 ^^^ gmul 0x0b s.r1 ^^^ gmul 0x0d s.r2 ^^^ gmul 0x09 s.r3
  r1 := gmul 0x09 s.r0 ^^^ gmul 0x0e s.r1 ^^^ gmul 0x0b s.r2 ^^^ gmul 0x0d s.r3
  r2 := gmul 0x0d s.r0 ^^^ gmul 0x09 s.r1 ^^^ gmul 0x0e s.r2 ^^^ gmul 0x0b s.r3
  r3 := gmul 0x0b s.r0 ^^^ gmul 0x0d s.r1 ^^^ gmul 0x09 s.r2 ^^^ gmul 0x0e s.r3

/-- MixColumns (R74). -/
def mixColumns (s : Block) : Block := s.mapCols mixColumn

/-- InvMixColumns (R75); of a round key it is taken column by column too (R76, R82). -/
def invMixColumns (s : Block) : Block := s.mapCols invMixColumn

/-- `SubWord({a0,a1,a2,a3}) = {SBOX[a0], SBOX[a1], SBOX[a2], SBOX[a3]}` (R77). -/
def subWord (w : Word) : Word := word ((bytes w).map sbox) 0

/-- `RotWord(w) = ((w << 8) OR (w >> 24))[31:0]` (R78). -/
def rotWord (w : Word) : Word := (w <<< 8) ||| (w >>> 24)

end Sys2Proof.Machine
end

