-- ==== Sys2Proof/Machine/BlockTransform.lean ====
section
/-! DEFINITION. The block transform engine (42_block_transform.md): the forward cipher, the equivalent inverse cipher,
the textbook inverse cipher for reference, and the meanings of ENCRYPT and DECRYPT. -/

namespace Sys2Proof.Machine

/-- The rounds 1 .. n-1, ascending. -/
def middleRounds (n : Nat) : List Nat := List.range' 1 (n - 1)

/-- A middle round of R86. -/
def cipherRound (rk : Nat → Block) (s : Block) (round : Nat) : Block :=
  addRoundKey (mixColumns (shiftRows (subBytes s))) (rk round)

/-- `Cipher(in, rk[0..N], N)` (R86); MixColumns is omitted in the final round. -/
def cipher (input : Block) (rk : Nat → Block) (n : Nat) : Block :=
  addRoundKey (shiftRows (subBytes ((middleRounds n).foldl (cipherRound rk) (addRoundKey input (rk 0))))) (rk n)

/-- A middle round of R87. -/
def eqInvCipherRound (dk : Nat → Block) (s : Block) (round : Nat) : Block :=
  addRoundKey (invMixColumns (invShiftRows (invSubBytes s))) (dk round)

/-- `EqInvCipher(in, dk[0..N], N)` (R87), the rounds N-1 down to 1. -/
def eqInvCipher (input : Block) (dk : Nat → Block) (n : Nat) : Block :=
  addRoundKey
    (invShiftRows (invSubBytes ((middleRounds n).reverse.foldl (eqInvCipherRound dk) (addRoundKey input (dk n)))))
    (dk 0)

/-- A middle round of R88. -/
def invCipherRound (rk : Nat → Block) (s : Block) (round : Nat) : Block :=
  invMixColumns (addRoundKey (invSubBytes (invShiftRows s)) (rk round))

/-- `InvCipher(in, rk[0..N], N)`, the textbook inverse cipher (R88). No command computes it. -/
def invCipher (input : Block) (rk : Nat → Block) (n : Nat) : Block :=
  addRoundKey
    (invSubBytes (invShiftRows ((middleRounds n).reverse.foldl (invCipherRound rk) (addRoundKey input (rk n)))))
    (rk 0)

/-- A block command's completion (R90, R91): schedule held, then its direction, then the cipher `f` on the block in
SNAP with the held round keys and their round count. -/
def blockCommand (needs : Direction) (f : Block → (Nat → Block) → Nat → Block) (s : State) : Result :=
  inFlight s fun snap =>
    if s.kv = false then .next (State.raiseError .noSchedule s)
    else if s.kdir ≠ needs then .next (State.raiseError .directionMismatch s)
    else
      match roundCount s.ksize with
      | none => .fault .noRoundCount
      | some n =>
        .next (State.finish .none { s with dout := wordsOfBlock (f (Snap.block snap) (State.roundKey s) n) })

/-- ENCRYPT (R90). -/
def execEncrypt (s : State) : Result := blockCommand .encrypt cipher s

/-- DECRYPT (R91). -/
def execDecrypt (s : State) : Result := blockCommand .decrypt eqInvCipher s

end Sys2Proof.Machine
end

