-- ==== Sys2Proof/Machine/Control.lean ====
section
/-! DEFINITION. The control commands (43_control.md): the meanings of NOP and CLEAR. -/

namespace Sys2Proof.Machine

/-- NOP (R92): ERR <- 0x0, nothing else. -/
def execNop (s : State) : Result := inFlight s fun _ => .next (State.finish .none s)

/-- CLEAR (R93): KEY, DIN, DOUT and RK to zero, the schedule dropped, ERR <- 0x0; OVR is not written. -/
def execClear (s : State) : Result := inFlight s fun _ => .next (State.finish .none (State.erase s))

end Sys2Proof.Machine
end

