-- ==== Sys2Proof/Machine/KeySchedule.lean ====
section
/-! DEFINITION. The key schedule expander (41_key_schedule.md): KeyExpansion, the round keys of both directions, and the
meanings of EXPAND.ENC and EXPAND.DEC. -/

namespace Sys2Proof.Machine

/-- The value XORed to `w[i-Nk]` in the recurrence of R79, from `t = w[i-1]`. -/
def expansionTerm (nk i : Nat) (t : Word) : Word :=
  if i % nk = 0 then subWord (rotWord t) ^^^ rcon (i / nk)
  else if nk = 8 ∧ i % nk = 4 then subWord t
  else t

/-- One turn of step 2 of R79: from `w[0..i-1]`, `w[i] := w[i-Nk] XOR t`. -/
def expandStep (nk : Nat) (w : List Word) : List Word :=
  w ++ [w.getD (w.length - nk) 0 ^^^ expansionTerm nk w.length (w.getD (w.length - 1) 0)]

/-- Step 2 of R79, `n` turns of it. -/
def expandSteps (nk : Nat) : Nat → List Word → List Word
  | 0, w => w
  | n + 1, w => expandSteps nk n (expandStep nk w)

/-- `KeyExpansion(key)`, the words `w[0 .. 4(N+1)-1]` (R79). -/
def keyExpansion (v : Variant) (key : List Byte) : List Word :=
  expandSteps v.nk (4 * (v.rounds + 1) - v.nk) ((List.range v.nk).map (word key))

/-- `rk[r] = bytes(w[4r]) ++ bytes(w[4r+1]) ++ bytes(w[4r+2]) ++ bytes(w[4r+3])` (R80). -/
def rkGroup (w : List Word) (r : Nat) : Block :=
  blockOfBytes (bytesOf [w.getD (4 * r) 0, w.getD (4 * r + 1) 0, w.getD (4 * r + 2) 0, w.getD (4 * r + 3) 0])

/-- `DecKeys(rk[0..N])`: the equivalent inverse cipher's keys, in generation order (R82). -/
def decKeys (n : Nat) (rk : Nat → Block) (r : Nat) : Block :=
  if r = 0 ∨ r = n then rk r else invMixColumns (rk r)

/-- The Encrypt-direction round keys of a raw key (R79, R80). -/
def encSchedule (v : Variant) (key : List Byte) : Nat → Block := rkGroup (keyExpansion v key)

/-- The Decrypt-direction round keys of a raw key (R82). -/
def decSchedule (v : Variant) (key : List Byte) : Nat → Block := decKeys v.rounds (encSchedule v key)

/-- EXPAND's completion (R84, R85): the KEYLEN check, then the schedule of the key in SNAP. -/
def expandCommand (d : Direction) (schedule : Variant → List Byte → Nat → Block) (keylen : Nat) (s : State) :
    Result :=
  inFlight s fun snap =>
    match variant keylen with
    | none => .next (State.raiseError .invalidKeyLength s)
    | some v => .next (State.finish .none (State.holdSchedule v d (schedule v (Snap.rawKey snap v)) s))

/-- EXPAND.ENC keylen (R84). -/
def execExpandEnc (keylen : Nat) (s : State) : Result := expandCommand .encrypt encSchedule keylen s

/-- EXPAND.DEC keylen (R85). -/
def execExpandDec (keylen : Nat) (s : State) : Result := expandCommand .decrypt decSchedule keylen s

end Sys2Proof.Machine
end

