-- ==== Sys2Proof/Machine/Dispatch.lean ====
section
/-! DEFINITION. exec: the meaning of each command at its completion step (70_reset_and_hazards.md R116). -/

namespace Sys2Proof.Machine

/-- The completion of a decoded command. -/
def exec (i : Instr) (s : State) : Host.Outcome State Fault Refusal :=
  match i with
  | .nop => Sys2Proof.Machine.execNop s
  | .expandEnc keylen => Sys2Proof.Machine.execExpandEnc keylen s
  | .expandDec keylen => Sys2Proof.Machine.execExpandDec keylen s
  | .encrypt => Sys2Proof.Machine.execEncrypt s
  | .decrypt => Sys2Proof.Machine.execDecrypt s
  | .clear => Sys2Proof.Machine.execClear s

end Sys2Proof.Machine
end

