-- ==== Sys2Proof/Machine/Completion.lean ====
section
/-! DEFINITION. The engine's step (70_reset_and_hazards.md R116): decode SNAP.CMD and run the command. -/

namespace Sys2Proof.Machine

/-- The completion step of the word in SNAP.CMD (R116): an illegal word reports 0x4, a command has its meaning. -/
def complete (cmd : Word) (s : State) : Result :=
  match decode cmd with
  | .illegal _ => completeIllegal s
  | .instr i => exec i s

/-- The engine's turn: while BUSY its one step is the completion step (R116); while IDLE it has none. -/
def engineTurn (s : State) : Result :=
  match s.eng with
  | .idle => .next s
  | .busy snap => complete snap.cmd s

/-- The state in which the engine's very next step completes the command word `v`: `v` has been accepted (R115) and
the draw gives the engine the turn. -/
def State.inFlightWith (v : Word) (s : State) : State :=
  { State.accept v { s with inReset := false } with turns := .engine :: s.turns }

end Sys2Proof.Machine
end

