-- ==== Sys2Proof/Machine/Step.lean ====
section
/-! DEFINITION. One step of the machine: one event of the total order of host accesses and completion steps (20_memory.md
R45), the draw of 70_reset_and_hazards.md R117 deciding which. -/

namespace Sys2Proof.Machine

/-- One step. The next turn in `turns` says who moves (R117). Where no turn is left, a command in flight completes,
since a completion is still owed (R116, R121), and an idle core takes its next input (log entry 2). -/
def step (s : State) : Host.Outcome State Fault Refusal :=
  match s.turns with
  | .engine :: rest => engineTurn { s with turns := rest }
  | .input :: rest => inputTurn { s with turns := rest }
  | [] =>
    match s.eng with
    | .busy _ => engineTurn s
    | .idle => inputTurn s

/-- `s` with the opcode-table word `w` accepted and its completion the very next step. The core fetches nothing (R15);
a command comes to it as a write to CTRL, and this stands for that write having been accepted (log entry 10). -/
def State.withFetchWord (s : State) (nbits w : Nat) : State := State.inFlightWith (tableWord nbits w) s

end Sys2Proof.Machine
end

