-- ==== Sys2Proof/Machine/HostProgram.lean ====
section
/-! DEFINITION. The host programs of 30_encoding.md R60 and R61: the lines the host runs, the pseudo-instructions, and a
host run over the core, in which every line's access goes through `step`. Host control flow and host temporaries are the
host's own, never the core's (R58, R60); this layer adds nothing to what `step` does. -/

namespace Sys2Proof.Machine

/-- A line of a host program (R60). Host temporaries and labels are numbered. -/
inductive HostLine where
  /-- `W <off>, <imm32>`: one admitted 32-bit write. -/
  | w (off : Offset) (imm : Word)
  /-- `R <off> -> <t>`: one admitted 32-bit read into host temporary `t`. -/
  | r (off : Offset) (t : Nat)
  /-- `label:` names the next line for a host branch. -/
  | label (l : Nat)
  /-- `BNZ <t>, <mask>, <label>`: if `(t AND mask) != 0` go to `label`. -/
  | bnz (t : Nat) (mask : Word) (l : Nat)
deriving DecidableEq, Repr

/-- Whether a line makes an access; the other two are host control flow, which the core never sees (R60). -/
def HostLine.isAccess : HostLine → Bool
  | .w _ _ => true
  | .r _ _ => true
  | .label _ => false
  | .bnz _ _ _ => false

/-- A pseudo-instruction (R61). `s` is the temporary WAITIDLE reads STATUS into. -/
inductive Pseudo where
  | cmd (i : Instr)
  | waitIdle (s : Nat)
  | run (i : Instr) (s : Nat)
  | loadKey (key : List Byte)
  | loadBlk (block : List Byte)
  | readBlk (o0 o1 o2 o3 : Nat)
  | clrKey
deriving DecidableEq, Repr

/-- The offset of KEYj: 0x10 + 4j (R35). -/
def keyOffset (j : Nat) : Offset := Fin.ofNat 128 (0x10 + 4 * j)

/-- The offset of DINj: 0x30 + 4j (R35). -/
def dinOffset (j : Nat) : Offset := Fin.ofNat 128 (0x30 + 4 * j)

/-- `CMD <mnemonic>` (R61). DESIGN CHOICE (log entry 22): an EXPAND with keylen above 255, which R59's assembler refuses,
gives the word of its low eight bits here; `Pseudo.assemble` refuses it. -/
def cmdLines (i : Instr) : List HostLine := [.w 0x00 (encode i)]

/-- `WAITIDLE`: read STATUS until BUSY = 0, with the label `fresh` (R61). -/
def waitIdleLines (s fresh : Nat) : List HostLine := [.label fresh, .r 0x04 s, .bnz s 0x1 fresh]

/-- `LOADKEY`: KEYj <- word(key, j), in increasing j (R42, R61). DESIGN CHOICE (log entry 22), where the rules are silent:
for a key of another length than 16, 24 or 32 bytes, L/4 is rounded down, and words past the eighth go to the offsets that
follow, modulo 0x80; `Pseudo.assemble` refuses such a key. -/
def loadKeyLines (key : List Byte) : List HostLine :=
  (List.range (key.length / 4)).map fun j => .w (keyOffset j) (word key j)

/-- `LOADBLK`: DINj <- word(in, j), in increasing j (R43, R61). DESIGN CHOICE (log entry 22), where the rules are silent: a
block of fewer than 16 bytes is filled up with zero bytes, and bytes past the sixteenth are not written;
`Pseudo.assemble` refuses such a block. -/
def loadBlkLines (block : List Byte) : List HostLine :=
  (List.range 4).map fun j => .w (dinOffset j) (word block j)

/-- `READBLK` (R61). -/
def readBlkLines (o0 o1 o2 o3 : Nat) : List HostLine := [.r 0x40 o0, .r 0x44 o1, .r 0x48 o2, .r 0x4C o3]

/-- `CLRKEY`: KEYj <- 0 for j = 0..7 (R61, R94). -/
def clrKeyLines : List HostLine := (List.range 8).map fun j => .w (keyOffset j) 0

/-- A pseudo-instruction's expansion (R61); `fresh` is the label it may name. -/
def Pseudo.expand (fresh : Nat) : Pseudo → List HostLine
  | .cmd i => cmdLines i
  | .waitIdle s => waitIdleLines s fresh
  | .run i s => cmdLines i ++ waitIdleLines s fresh
  | .loadKey key => loadKeyLines key
  | .loadBlk block => loadBlkLines block
  | .readBlk o0 o1 o2 o3 => readBlkLines o0 o1 o2 o3
  | .clrKey => clrKeyLines

/-- Which pseudo-instructions have operands in the rules' domain: an encodable command (R59), a raw key of 16, 24 or 32
bytes (R42), a block of 16 bytes (R12, R43). -/
def Pseudo.wf : Pseudo → Bool
  | .cmd i => i.wf
  | .waitIdle _ => true
  | .run i _ => i.wf
  | .loadKey key => (variant key.length).isSome
  | .loadBlk block => decide (block.length = 16)
  | .readBlk _ _ _ _ => true
  | .clrKey => true

/-- The assembler's expansion (R59, R61): it refuses an operand outside the rules' domain. That R59's refusal extends to
the length of a key or a block is a DESIGN CHOICE (log entry 22). -/
def Pseudo.assemble (fresh : Nat) (p : Pseudo) : Option (List HostLine) :=
  if p.wf then some (p.expand fresh) else none

/-- A host program over the core (R60, R121). -/
structure HostRun where
  /-- The program's lines. -/
  program : List HostLine
  /-- The line the host comes to next. -/
  line : Nat
  /-- The host temporaries written so far, the latest write first. -/
  temps : List (Nat × Word)
  /-- The core. -/
  core : State
deriving DecidableEq, Repr

/-- A program about to run from the reset state. -/
def HostRun.start (program : List HostLine) : HostRun :=
  { program := program, line := 0, temps := [], core := State.reset }

/-- The value of a host temporary; one not yet written holds a free value (log entry 18). -/
def HostRun.temp (h : HostRun) (t : Nat) : Word := ((h.temps.find? (·.1 == t)).map (·.2)).getD (Config.hostTemp t)

/-- Where a branch to a label goes: the `label:` line, which only passes to the line it names (R60). DESIGN CHOICE
(log entry 18), where R60 is silent: of two `label:` lines with one name the first is taken, and a label the program
lacks gives the program's end. -/
def HostRun.target (h : HostRun) (l : Nat) : Nat := h.program.findIdx (· == .label l)

/-- The line the host comes to after line `l`, which reads `line` (R60). -/
def HostRun.nextLine (h : HostRun) (l : Nat) : HostLine → Nat
  | .w _ _ => l + 1
  | .r _ _ => l + 1
  | .label _ => l + 1
  | .bnz t mask target => if h.temp t &&& mask ≠ 0 then h.target target else l + 1

/-- The host issues one access, as one step of the core. -/
def HostRun.issue (h : HostRun) (a : Access) : Result :=
  step { h.core with turns := [.input], inputs := [.access a] }

/-- The host after an answered step. -/
def HostRun.after (r : Result) (k : State → HostRun) : Host.Outcome HostRun Fault Refusal :=
  match r with
  | .next c => .next (k c)
  | .fault f => .fault f
  | .refused f => .refused f

/-- The host runs one line (R60). -/
def HostRun.runLine (h : HostRun) : HostLine → Host.Outcome HostRun Fault Refusal
  | .w off imm => HostRun.after (h.issue (.write .b32 off imm)) fun c => { h with core := c, line := h.line + 1 }
  | .r off t =>
    HostRun.after (h.issue (.read .b32 off)) fun c =>
      { h with core := c, line := h.line + 1, temps := (t, c.reads.headD 0) :: h.temps }
  | .label l => .next { h with line := h.nextLine h.line (.label l) }
  | .bnz t mask l => .next { h with line := h.nextLine h.line (.bnz t mask l) }

/-- One event of the run: the host's next line, or the engine's turn (R45, R117). A host that has issued its last
line does nothing. -/
def HostRun.step (h : HostRun) : Turn → Host.Outcome HostRun Fault Refusal
  | .engine => HostRun.after (Machine.step { h.core with turns := [.engine] }) fun c => { h with core := c }
  | .input =>
    match h.program[h.line]? with
    | none => .next h
    | some line => h.runLine line

/-- The events of a draw, in order, up to the first stop. -/
def HostRun.runTurns : List Turn → HostRun → Host.Outcome HostRun Fault Refusal
  | [], h => .next h
  | t :: ts, h =>
    match h.step t with
    | .next h' => HostRun.runTurns ts h'
    | .fault f => .fault f
    | .refused f => .refused f

/-- Whether the host, come to line `l`, makes an access within the next `n` lines it runs. -/
def HostRun.accessWithin (h : HostRun) : Nat → Nat → Bool
  | 0, _ => false
  | n + 1, l =>
    match h.program[l]? with
    | none => false
    | some line => line.isAccess || h.accessWithin n (h.nextLine l line)

/-- The host has issued its last access: none comes in the lines it still runs (R121). Only a read changes a temporary,
so up to the next access the lines it runs follow from where it stands, and within as many lines as the program has they
come to an access, leave the program, or go round for ever without one (log entry 21). -/
def HostRun.issuedLastAccess (h : HostRun) : Bool := !h.accessWithin h.program.length h.line

/-- A run ends when the host has issued its last access and ENG = IDLE (R121); `label:` and `BNZ` lines may be left. -/
def HostRun.ended (h : HostRun) : Bool := h.issuedLastAccess && !(Engine.isBusy h.core.eng)

end Sys2Proof.Machine
end

