-- ==== Sys2Proof/Safety.lean ====
section
/-! DEFINITION. What the claims call a safe state and a safe run (10_state.md R31; 20_memory.md R37, R38). -/

namespace Sys2Proof.Machine

/-- The core's own state, as R13 lists it, is that of reset (R33); the world around it may differ. -/
def State.CoreIsReset (s : State) : Prop :=
  s.key = State.reset.key ∧ s.din = State.reset.din ∧ s.dout = State.reset.dout ∧ s.rk = State.reset.rk ∧
    s.kv = false ∧ s.kdir = .encrypt ∧ s.ksize = .none ∧ s.ovr = false ∧ s.err = .none ∧ s.eng = .idle

/-- The invariants of R31, in its order, and R112's: while reset is asserted every piece of state holds its reset
value. -/
structure State.Inv (s : State) : Prop where
  /-- KV = 1 if and only if KSIZE ≠ 0b00. -/
  kv_iff : s.kv = true ↔ s.ksize ≠ .none
  /-- KV = 0 implies KDIR = 0 and every RK entry is zero. -/
  no_schedule : s.kv = false → s.kdir = .encrypt ∧ ∀ r < 15, s.roundKey r = Block.zero
  /-- KV = 1 with KSIZE giving N rounds implies RK[N+1..14] are zero. -/
  unused_zero : s.kv = true → ∀ n, roundCount s.ksize = some n → ∀ r, n < r → r < 15 → s.roundKey r = Block.zero
  /-- BUSY = 1 if and only if ENG = BUSY. -/
  busy_iff : s.statusWord.getLsbD 0 = true ↔ s.eng ≠ .idle
  /-- STATUS.ERR ∈ {0x0, 0x1, 0x2, 0x3, 0x4}. -/
  err_code : (s.statusWord.extractLsb' 8 4).toNat ≤ 4
  /-- R112. -/
  reset_held : s.inReset = true → s.CoreIsReset

/-- The host makes admitted accesses only (R37): no step of such a run is a bus error (R38). -/
def State.InputsAdmitted (s : State) : Prop := ∀ a, Input.access a ∈ s.inputs → a.admitted = true

/-- It is the engine's turn: the draw says so, or no draw is left and a completion is owed (R116, R117). -/
def State.EngineMoves (s : State) : Prop := s.turns.head? = some .engine ∨ (s.turns = [] ∧ s.eng ≠ .idle)

/-- It is the outside world's turn. -/
def State.InputMoves (s : State) : Prop := s.turns.head? = some .input ∨ (s.turns = [] ∧ s.eng = .idle)

/-- The state with the turn used up: the state a step's event acts on. -/
def State.turnTaken (s : State) : State := { s with turns := s.turns.tail }

/-- The state with the turn and the next input used up. -/
def State.inputTaken (s : State) : State := { s with turns := s.turns.tail, inputs := s.inputs.tail }

end Sys2Proof.Machine
end

