-- ==== Sys2Proof/Certificates/Slice0/Obligations.lean ====
section
/-! DEFINITION. What the model claims, for the provers: each statement's docstring says which rules of spec/ it rests
on. Admitted accesses are written out: 32 bits wide, at an offset that is a multiple of 4 (R37). -/

open Sys2Proof Sys2Proof.Machine

/-! ### Encoding (30_encoding.md) -/

/-- R55, R59: decoding an assembled command gives it back, its operand at every value it admits. -/
def Obligations.DecodeOfEncode : Prop := ∀ i : Instr, i.wf = true → decode (encode i) = .instr i

/-- R55, R59: a word that decodes to a command is the only word that does, and the command is well formed. -/
def Obligations.EncodeOfDecode : Prop :=
  ∀ (v : Word) (i : Instr), decode v = .instr i → i.wf = true ∧ encode i = v

/-- R56: each row's match and mask select its command, and a word that matches no row is illegal. -/
def Obligations.MatchAndMaskSelectCommand : Prop :=
  ∀ v : Word,
    (decode v = .instr .nop ↔ v &&& 0xFFFFFFFF#32 = 0x00000000#32) ∧
    (decode v = .instr (.expandEnc (fieldKeylen v).toNat) ↔ v &&& 0xFFFF00FF#32 = 0x00000001#32) ∧
    (decode v = .instr (.expandDec (fieldKeylen v).toNat) ↔ v &&& 0xFFFF00FF#32 = 0x00000011#32) ∧
    (decode v = .instr .encrypt ↔ v &&& 0xFFFFFFFF#32 = 0x00000002#32) ∧
    (decode v = .instr .decrypt ↔ v &&& 0xFFFFFFFF#32 = 0x00000003#32) ∧
    (decode v = .instr .clear ↔ v &&& 0xFFFFFFFF#32 = 0x00000004#32) ∧
    ((∃ why, decode v = .illegal why) ↔
      v &&& 0xFFFFFFFF#32 ≠ 0x00000000#32 ∧ v &&& 0xFFFF00FF#32 ≠ 0x00000001#32 ∧
      v &&& 0xFFFF00FF#32 ≠ 0x00000011#32 ∧ v &&& 0xFFFFFFFF#32 ≠ 0x00000002#32 ∧
      v &&& 0xFFFFFFFF#32 ≠ 0x00000003#32 ∧ v &&& 0xFFFFFFFF#32 ≠ 0x00000004#32)

/-- R57: which words are illegal; such a word is accepted like any other, and its completion writes ERR <- 0x4 (and
clears BUSY, R116) and nothing else. -/
def Obligations.IllegalWordReportsCodeFour : Prop :=
  (∀ v : Word,
    (∃ why, decode v = .illegal why) ↔
      (5 ≤ (fieldOp v).toNat) ∨
      (fieldOp v = 0x1#4 ∧ (fieldRsva v ≠ 0 ∨ fieldRsvb v ≠ 0)) ∨
      (fieldOp v ∈ [0x0#4, 0x2#4, 0x3#4, 0x4#4] ∧ fieldAboveOp v ≠ 0)) ∧
  (∀ (s : State) (v : Word) (rest : List Input),
    s.InputMoves → s.inputs = .access (.write .b32 0x00 v) :: rest → s.inReset = false → s.eng = .idle →
    step s = .next { s.inputTaken with eng := .busy { cmd := v, key := s.key, din := s.din } }) ∧
  (∀ (s : State) (snap : Snap) (why : IllegalReason),
    s.EngineMoves → s.eng = .busy snap → decode snap.cmd = .illegal why →
    step s = .next { s.turnTaken with err := .illegalCommand, eng := .idle } ∧
      ErrCode.code .illegalCommand = 0x4#4)

/-- 95_test_vectors.md section 2.5, R55: sample words decode as listed there. -/
def Obligations.SampleWordsDecode : Prop :=
  decode 0x00000000#32 = .instr .nop ∧ decode 0x00001001#32 = .instr (.expandEnc 16) ∧
  decode 0x00001811#32 = .instr (.expandDec 24) ∧ decode 0x0000FF11#32 = .instr (.expandDec 255) ∧
  decode 0x00000002#32 = .instr .encrypt ∧ decode 0x00000003#32 = .instr .decrypt ∧
  decode 0x00000004#32 = .instr .clear ∧ (decode 0x00000005#32).instr? = none ∧
  (decode 0x00010F01#32).instr? = none

/-! ### The command protocol (70_reset_and_hazards.md, 20_memory.md) -/

/-- R116: in the engine's turn a step decodes SNAP.CMD and runs the command it decodes to; the step's own addition is
that it uses the turn up. -/
def Obligations.StepRunsDecodedCommand : Prop :=
  ∀ (s : State) (snap : Snap) (i : Instr),
    s.EngineMoves → s.eng = .busy snap → decode snap.cmd = .instr i → step s = exec i s.turnTaken

/-- R115: a write to CTRL while ENG = IDLE is accepted whatever the word: SNAP takes it and KEY and DIN, ENG goes to
BUSY, nothing else changes. -/
def Obligations.IdleWriteIsAccepted : Prop :=
  ∀ (s : State) (v : Word) (rest : List Input),
    s.InputMoves → s.inputs = .access (.write .b32 0x00 v) :: rest → s.inReset = false → s.eng = .idle →
    step s = .next { s.inputTaken with eng := .busy { cmd := v, key := s.key, din := s.din } }

/-- R118: a write to CTRL while ENG = BUSY is dropped: OVR <- 1, nothing else changes, SNAP among it. -/
def Obligations.BusyWriteIsDropped : Prop :=
  ∀ (s : State) (snap : Snap) (v : Word) (rest : List Input),
    s.InputMoves → s.inputs = .access (.write .b32 0x00 v) :: rest → s.inReset = false → s.eng = .busy snap →
    step s = .next { s.inputTaken with ovr := true }

/-- R119: KEY, DIN and STATUS writes while BUSY take effect at once and leave the command in flight alone: every
command but CLEAR completes the same whatever KEY and DIN hold by then, and keeps them, so that a command accepted
later sees them; CLEAR's completion zeroes them. -/
def Obligations.BusyOperandWrites : Prop :=
  (∀ (s : State) (snap : Snap) (off : Offset) (v : Word) (rest : List Input),
    s.InputMoves → s.inputs = .access (.write .b32 off v) :: rest → s.inReset = false → s.eng = .busy snap →
    (∀ j : Fin 8, off.val = 0x10 + 4 * j.val →
      step s = .next { s.inputTaken with key := s.key.set j v }) ∧
    (∀ j : Fin 4, off.val = 0x30 + 4 * j.val →
      step s = .next { s.inputTaken with din := s.din.set j v }) ∧
    (off.val = 0x04 →
      step s = .next { s.inputTaken with ovr := s.ovr && !v.getLsbD 7 })) ∧
  (∀ (i : Instr) (s t : State) (key : Vector Word 8) (din : Vector Word 4),
    i ≠ .clear → exec i s = .next t →
    exec i { s with key := key, din := din } = .next { t with key := key, din := din } ∧
      t.key = s.key ∧ t.din = s.din) ∧
  (∀ (s : State) (v : Word),
    s.eng = .idle → (s.offer v).eng = .busy { cmd := v, key := s.key, din := s.din }) ∧
  (∀ (s t : State),
    exec .clear s = .next t → t.key = Vector.replicate 8 0 ∧ t.din = Vector.replicate 4 0)

/-- R117, R120: a host read that comes before the completion in the draw returns the old value of its register, one
that comes after returns the new value; both draws are runs of the machine. -/
def Obligations.ReadRacesCompletion : Prop :=
  ∀ (s t : State) (snap : Snap) (off : Offset) (rest : List Input) (ts : List Turn),
    s.eng = .busy snap → s.inReset = false → off.val % 4 = 0 →
    s.inputs = .access (.read .b32 off) :: rest → complete snap.cmd s = .next t →
    (∃ u, core.run 2 { s with turns := .input :: .engine :: ts } = .next u ∧
      u = { t with turns := ts, inputs := rest, reads := s.busRead off :: s.reads }) ∧
    (∃ u, core.run 2 { s with turns := .engine :: .input :: ts } = .next u ∧
      u = { t with turns := ts, inputs := rest, reads := t.busRead off :: s.reads })

/-- R116, R117: under every draw a command in flight completes, within one step more than the draw has turns, unless
reset abandons it. The bound on the draw is the model's own (log entry 2). -/
def Obligations.CommandInFlightCompletes : Prop :=
  ∀ (s : State) (snap : Snap),
    s.Inv → s.InputsAdmitted → Input.assertReset ∉ s.inputs → s.eng = .busy snap →
    ∃ k s' t, k ≤ s.turns.length ∧ core.run k s = .next s' ∧ s'.eng = .busy snap ∧ s'.EngineMoves ∧
      step s' = .next t ∧ t.eng = .idle

/-! ### The registers (10_state.md, 20_memory.md) -/

/-- R17: the fields of STATUS, its reserved bits, its value after reset, what a host reads at 0x04, and the one bit a
host write changes. -/
def Obligations.StatusWordLayout : Prop :=
  (∀ s : State,
    (s.statusWord.getLsbD 0 = true ↔ s.eng ≠ .idle) ∧
    s.statusWord.getLsbD 1 = s.kv ∧
    (s.statusWord.getLsbD 2 = true ↔ s.kdir = .decrypt) ∧
    s.statusWord.extractLsb' 3 2 =
      (match s.ksize with | .none => 0b00#2 | .aes128 => 0b01#2 | .aes192 => 0b10#2 | .aes256 => 0b11#2) ∧
    s.statusWord.extractLsb' 5 2 = 0 ∧
    s.statusWord.getLsbD 7 = s.ovr ∧
    s.statusWord.extractLsb' 8 4 =
      (match s.err with
        | .none => 0x0#4 | .invalidKeyLength => 0x1#4 | .directionMismatch => 0x2#4
        | .noSchedule => 0x3#4 | .illegalCommand => 0x4#4) ∧
    s.statusWord.extractLsb' 12 20 = 0) ∧
  State.reset.statusWord = 0 ∧
  (∀ (s : State) (rest : List Input),
    s.InputMoves → s.inputs = .access (.read .b32 0x04) :: rest → s.inReset = false →
    step s = .next { s.inputTaken with reads := s.statusWord :: s.reads }) ∧
  (∀ (s : State) (v : Word) (rest : List Input),
    s.InputMoves → s.inputs = .access (.write .b32 0x04 v) :: rest → s.inReset = false →
    step s = .next { s.inputTaken with ovr := s.ovr && !v.getLsbD 7 })

/-- R22: OVR is set by a dropped offer, cleared by a STATUS write with bit 7 = 1 or by reset, left by a STATUS write
with bit 7 = 0, and changed by no command's completion. -/
def Obligations.OverrunFlag : Prop :=
  (∀ (s : State) (v : Word) (rest : List Input),
    s.InputMoves → s.inputs = .access (.write .b32 0x00 v) :: rest → s.inReset = false → s.eng ≠ .idle →
    ∃ t, step s = .next t ∧ t.ovr = true) ∧
  (∀ (s : State) (v : Word) (rest : List Input),
    s.InputMoves → s.inputs = .access (.write .b32 0x04 v) :: rest → s.inReset = false →
    ∃ t, step s = .next t ∧ (v.getLsbD 7 = true → t.ovr = false) ∧ (v.getLsbD 7 = false → t.ovr = s.ovr)) ∧
  (∀ (s : State) (rest : List Input),
    s.InputMoves → s.inputs = .assertReset :: rest → ∃ t, step s = .next t ∧ t.ovr = false) ∧
  (∀ s t : State, s.EngineMoves → step s = .next t → t.ovr = s.ovr)

/-- R16, R24, R25, R26, R36, R40: what an admitted read of each slot returns, and that it changes nothing else. -/
def Obligations.ApertureReads : Prop :=
  ∀ (s : State) (off : Offset) (rest : List Input),
    s.InputMoves → s.inputs = .access (.read .b32 off) :: rest → s.inReset = false → off.val % 4 = 0 →
    ∃ v, step s = .next { s.inputTaken with reads := v :: s.reads } ∧
      (off.val = 0x04 → v = s.statusWord) ∧
      (∀ j : Fin 4, off.val = 0x30 + 4 * j.val → v = s.din[j]) ∧
      (∀ j : Fin 4, off.val = 0x40 + 4 * j.val → v = s.dout[j]) ∧
      (off.val = 0x00 ∨ (0x08 ≤ off.val ∧ off.val < 0x30) ∨ 0x50 ≤ off.val → v = 0)

/-- R24, R25, R26, R36, R40: what an admitted write to each data slot does, while IDLE or BUSY. -/
def Obligations.ApertureWrites : Prop :=
  ∀ (s : State) (off : Offset) (v : Word) (rest : List Input),
    s.InputMoves → s.inputs = .access (.write .b32 off v) :: rest → s.inReset = false → off.val % 4 = 0 →
    (∀ j : Fin 8, off.val = 0x10 + 4 * j.val → step s = .next { s.inputTaken with key := s.key.set j v }) ∧
    (∀ j : Fin 4, off.val = 0x30 + 4 * j.val → step s = .next { s.inputTaken with din := s.din.set j v }) ∧
    (off.val = 0x08 ∨ off.val = 0x0C ∨ 0x40 ≤ off.val → step s = .next s.inputTaken)

/-- R37, R38: an access is admitted exactly where it is 32 bits wide at a multiple of 4; any other is a bus error, in
every state; an admitted one is performed. That a bus error ends the model's run is log entry 3. That the access is
refused while reset is asserted too is the model's choice, log entry 6. -/
def Obligations.OtherAccessesAreBusErrors : Prop :=
  ∀ (s : State) (a : Access) (rest : List Input),
    s.InputMoves → s.inputs = .access a :: rest →
    (a.size ≠ .b32 ∨ a.off.val % 4 ≠ 0 → step s = .fault .busError) ∧
    (a.size = .b32 → a.off.val % 4 = 0 → ∃ t, step s = .next t)

/-- R24, R27, R32: no read tells the host anything of KEY or of RK, whether the core is IDLE or BUSY, nor, while BUSY,
of SNAP. -/
def Obligations.ReadsRevealNoKeyMaterial : Prop :=
  (∀ (s : State) (key : Vector Word 8) (rk : Vector Block 15) (off : Offset),
    State.busRead { s with key := key, rk := rk } off = s.busRead off) ∧
  (∀ (s : State) (key : Vector Word 8) (rk : Vector Block 15) (snap snap' : Snap) (off : Offset),
    s.eng = .busy snap →
    State.busRead { s with key := key, rk := rk, eng := .busy snap' } off = s.busRead off)

/-- R34: BASE is a multiple of 0x80, an offset is the host address minus BASE, and no address outside the 0x80 bytes
has one. -/
def Obligations.ApertureAtBase : Prop :=
  base % 0x80 = 0 ∧ (∀ off : Offset, offsetOf (base + off.val) = some off) ∧
  (∀ addr : Nat, addr < base ∨ base + 0x80 ≤ addr → offsetOf addr = none)

/-! ### Reset (R33, R112) -/

/-- R33: the state after reset; STATUS and CTRL read 0 there. -/
def Obligations.ResetValues : Prop :=
  State.reset.statusWord = 0x00000000#32 ∧ (∀ j : Fin 8, State.reset.key[j] = 0) ∧
  (∀ j : Fin 4, State.reset.din[j] = 0) ∧ (∀ j : Fin 4, State.reset.dout[j] = 0) ∧
  (∀ r < 15, State.reset.roundKey r = Block.zero) ∧ State.reset.eng = .idle ∧ State.reset.kv = false ∧
  State.reset.kdir = .encrypt ∧ State.reset.ksize = .none ∧ State.reset.ovr = false ∧ State.reset.err = .none ∧
  State.reset.busRead 0x00 = 0 ∧ State.reset.busRead 0x04 = 0

/-- R112: asserting reset in any state gives every piece of the core's state its reset value and abandons the command
in flight; while it is asserted no completion happens, writes have no effect and reads return a free value; released,
the core is IDLE with STATUS = 0 and accepts the next CTRL write. -/
def Obligations.ResetInput : Prop :=
  (∀ (s : State) (rest : List Input),
    s.InputMoves → s.inputs = .assertReset :: rest →
    ∃ t, step s = .next t ∧ t.CoreIsReset ∧ t.inReset = true ∧ t.inputs = rest ∧ t.turns = s.turns.tail ∧
      t.reads = s.reads ∧ t.draws = s.draws) ∧
  (∀ (s : State) (off : Offset) (v : Word) (rest : List Input),
    s.InputMoves → s.inputs = .access (.write .b32 off v) :: rest → off.val % 4 = 0 → s.inReset = true →
    step s = .next s.inputTaken) ∧
  (∀ (s : State) (off : Offset) (rest : List Input),
    s.InputMoves → s.inputs = .access (.read .b32 off) :: rest → off.val % 4 = 0 → s.inReset = true →
    ∃ w, step s = .next { s.inputTaken with reads := w :: s.reads, draws := s.draws + 1 }) ∧
  (∀ s : State, s.Inv → s.inReset = true → s.EngineMoves → step s = .next s.turnTaken) ∧
  (∀ (s : State) (rest : List Input),
    s.InputMoves → s.inputs = .releaseReset :: rest → s.Inv → s.inReset = true →
    ∃ t, step s = .next t ∧ t.inReset = false ∧ t.CoreIsReset ∧ t.statusWord = 0 ∧
      ∀ v, t.perform (.write .b32 0x00 v) = { t with eng := .busy { cmd := v, key := t.key, din := t.din } })

/-! ### The commands (41_key_schedule.md, 42_block_transform.md, 43_control.md) -/

/-- R92: NOP's word, and NOP completes with ERR <- 0x0 and BUSY cleared, nothing else. -/
def Obligations.NopCompletes : Prop :=
  decode 0x00000000#32 = .instr .nop ∧
  ∀ (s : State) (snap : Snap), s.eng = .busy snap → exec .nop s = .next { s with err := .none, eng := .idle }

/-- R93: CLEAR's word, and CLEAR completes with KEY, DIN, DOUT and RK zero, the schedule dropped and ERR = 0x0; OVR is
not written, and the rest of the core is as after reset. -/
def Obligations.ClearCompletes : Prop :=
  decode 0x00000004#32 = .instr .clear ∧
  ∀ (s : State) (snap : Snap), s.eng = .busy snap →
    ∃ t, exec .clear s = .next t ∧
      t = { s with
        key := Vector.replicate 8 0, din := Vector.replicate 4 0, dout := Vector.replicate 4 0,
        rk := Vector.replicate 15 Block.zero, kv := false, kdir := .encrypt, ksize := .none, err := .none,
        eng := .idle } ∧
      State.CoreIsReset { t with ovr := false }

/-- R83: KEYLEN 16, 24 and 32 select the variants; any other value fails with code 0x1 and writes nothing else. -/
def Obligations.KeyLengthSelectsVariant : Prop :=
  variant 16 = some .aes128 ∧ Variant.nk .aes128 = 4 ∧ Variant.rounds .aes128 = 10 ∧
  KSize.code (Variant.ksize .aes128) = 0b01#2 ∧
  variant 24 = some .aes192 ∧ Variant.nk .aes192 = 6 ∧ Variant.rounds .aes192 = 12 ∧
  KSize.code (Variant.ksize .aes192) = 0b10#2 ∧
  variant 32 = some .aes256 ∧ Variant.nk .aes256 = 8 ∧ Variant.rounds .aes256 = 14 ∧
  KSize.code (Variant.ksize .aes256) = 0b11#2 ∧
  ErrCode.code .invalidKeyLength = 0x1#4 ∧
  (∀ (s : State) (snap : Snap) (keylen : Nat),
    s.eng = .busy snap → keylen ≠ 16 → keylen ≠ 24 → keylen ≠ 32 →
    exec (.expandEnc keylen) s = .next { s with err := .invalidKeyLength, eng := .idle } ∧
    exec (.expandDec keylen) s = .next { s with err := .invalidKeyLength, eng := .idle })

/-- R84: EXPAND.ENC's words; with a valid KEYLEN completes with the schedule of the first Nk words of SNAP.KEY in
RK[0..N], zero above, KV = 1, KDIR = 0, KSIZE the variant's and ERR = 0x0; nothing else but BUSY changes. Any other
KEYLEN reports 0x1 and changes nothing else. -/
def Obligations.ExpandEncCompletes : Prop :=
  (∀ v : Word, v &&& 0xFFFF00FF#32 = 0x00000001#32 → decode v = .instr (.expandEnc (v.extractLsb' 8 8).toNat)) ∧
  (∀ (s : State) (snap : Snap) (keylen : Nat) (v : Variant),
    s.eng = .busy snap → (keylen, v) ∈ [(16, Variant.aes128), (24, .aes192), (32, .aes256)] →
    ∃ rk : Vector Block 15,
      exec (.expandEnc keylen) s =
        .next { s with rk := rk, kv := true, kdir := .encrypt, ksize := v.ksize, err := .none, eng := .idle } ∧
      ∀ r : Fin 15, rk[r] =
        if r.val ≤ v.rounds then rkGroup (keyExpansion v (bytesOf (snap.key.toList.take v.nk))) r.val
        else Block.zero) ∧
  (∀ (s : State) (snap : Snap) (keylen : Nat),
    s.eng = .busy snap → keylen ≠ 16 → keylen ≠ 24 → keylen ≠ 32 →
    exec (.expandEnc keylen) s = .next { s with err := .invalidKeyLength, eng := .idle })

/-- R85: EXPAND.DEC's words; it completes as EXPAND.ENC does, with the equivalent inverse cipher's keys and
KDIR = 1. -/
def Obligations.ExpandDecCompletes : Prop :=
  (∀ v : Word, v &&& 0xFFFF00FF#32 = 0x00000011#32 → decode v = .instr (.expandDec (v.extractLsb' 8 8).toNat)) ∧
  (∀ (s : State) (snap : Snap) (keylen : Nat) (v : Variant),
    s.eng = .busy snap → (keylen, v) ∈ [(16, Variant.aes128), (24, .aes192), (32, .aes256)] →
    ∃ rk : Vector Block 15,
      exec (.expandDec keylen) s =
        .next { s with rk := rk, kv := true, kdir := .decrypt, ksize := v.ksize, err := .none, eng := .idle } ∧
      ∀ r : Fin 15, rk[r] =
        if r.val ≤ v.rounds then
          decKeys v.rounds (rkGroup (keyExpansion v (bytesOf (snap.key.toList.take v.nk)))) r.val
        else Block.zero) ∧
  (∀ (s : State) (snap : Snap) (keylen : Nat),
    s.eng = .busy snap → keylen ≠ 16 → keylen ≠ 24 → keylen ≠ 32 →
    exec (.expandDec keylen) s = .next { s with err := .invalidKeyLength, eng := .idle })

/-- R79: the words of KeyExpansion: how many, the first Nk, and the recurrence for the others. -/
def Obligations.KeyExpansionRecurrence : Prop :=
  ∀ (v : Variant) (key : List Byte), key.length = 4 * v.nk →
    (keyExpansion v key).length = 4 * (v.rounds + 1) ∧
    (∀ i < v.nk, (keyExpansion v key).getD i 0 = word key i) ∧
    (∀ i, v.nk ≤ i → i < 4 * (v.rounds + 1) →
      (keyExpansion v key).getD i 0 =
        (keyExpansion v key).getD (i - v.nk) 0 ^^^
          (if i % v.nk = 0 then subWord (rotWord ((keyExpansion v key).getD (i - 1) 0)) ^^^ rcon (i / v.nk)
            else if v.nk = 8 ∧ i % v.nk = 4 then subWord ((keyExpansion v key).getD (i - 1) 0)
            else (keyExpansion v key).getD (i - 1) 0))

/-- R80: round key r is the bytes of four words in generation order: byte 4j + m of round key r is byte m of `w[4r +
j]`, and that word is column j of the round key. -/
def Obligations.RoundKeyGrouping : Prop :=
  ∀ (w : List Word) (r j m : Nat), j < 4 → m < 4 →
    bytesOfBlock (rkGroup w r) =
      bytes (w.getD (4 * r) 0) ++ bytes (w.getD (4 * r + 1) 0) ++ bytes (w.getD (4 * r + 2) 0) ++
        bytes (w.getD (4 * r + 3) 0) ∧
    (bytesOfBlock (rkGroup w r)).getD (4 * j + m) 0 = (bytes (w.getD (4 * r + j) 0)).getD m 0 ∧
    word (bytesOfBlock (rkGroup w r)) j = w.getD (4 * r + j) 0

/-- R81: in either direction round key 0 is the first 16 bytes of the raw key. -/
def Obligations.FirstRoundKeyIsKeyStart : Prop :=
  ∀ (v : Variant) (key : List Byte), key.length = 4 * v.nk →
    bytesOfBlock (encSchedule v key 0) = key.take 16 ∧ bytesOfBlock (decSchedule v key 0) = key.take 16

/-- R82: from one state, EXPAND.DEC leaves the first and last round keys of EXPAND.ENC unmodified and every other one
transformed by InvMixColumns, in the same order. -/
def Obligations.DecryptScheduleTransformsMiddleKeys : Prop :=
  ∀ (s : State) (snap : Snap) (keylen : Nat) (v : Variant),
    s.eng = .busy snap → variant keylen = some v →
    ∃ e d, exec (.expandEnc keylen) s = .next e ∧ exec (.expandDec keylen) s = .next d ∧
      d.roundKey 0 = e.roundKey 0 ∧ d.roundKey v.rounds = e.roundKey v.rounds ∧
      ∀ r, 1 ≤ r → r < v.rounds → d.roundKey r = invMixColumns (e.roundKey r)

/-- R90: ENCRYPT's word, and its completion: NO_SCHEDULE with KV = 0, DIRECTION_MISMATCH with KDIR = 1, and otherwise
DOUT is Cipher of the block in SNAP.DIN under the held schedule with NR(KSIZE) rounds; nothing else but ERR and BUSY
changes. -/
def Obligations.EncryptCompletes : Prop :=
  decode 0x00000002#32 = .instr .encrypt ∧
  ∀ (s : State) (snap : Snap), s.eng = .busy snap →
    (s.kv = false → exec .encrypt s = .next { s with err := .noSchedule, eng := .idle }) ∧
    (s.kv = true → s.kdir ≠ .encrypt → exec .encrypt s = .next { s with err := .directionMismatch, eng := .idle }) ∧
    (s.kv = true → s.kdir = .encrypt →
      ∀ k n, (k, n) ∈ [(KSize.aes128, 10), (.aes192, 12), (.aes256, 14)] → s.ksize = k →
      exec .encrypt s =
        .next { s with
          dout := wordsOfBlock (cipher (blockOfWords snap.din) s.roundKey n), err := .none, eng := .idle })

/-- R91: DECRYPT's word, and its completion: as ENCRYPT's, with KDIR = 1 required and EqInvCipher. -/
def Obligations.DecryptCompletes : Prop :=
  decode 0x00000003#32 = .instr .decrypt ∧
  ∀ (s : State) (snap : Snap), s.eng = .busy snap →
    (s.kv = false → exec .decrypt s = .next { s with err := .noSchedule, eng := .idle }) ∧
    (s.kv = true → s.kdir ≠ .decrypt → exec .decrypt s = .next { s with err := .directionMismatch, eng := .idle }) ∧
    (s.kv = true → s.kdir = .decrypt →
      ∀ k n, (k, n) ∈ [(KSize.aes128, 10), (.aes192, 12), (.aes256, 14)] → s.ksize = k →
      exec .decrypt s =
        .next { s with
          dout := wordsOfBlock (eqInvCipher (blockOfWords snap.din) s.roundKey n), err := .none, eng := .idle })

/-- R90 (Determinism): the block commands' output and code depend on SNAP.DIN and the held schedule alone. -/
def Obligations.BlockResultDependsOnScheduleAndBlock : Prop :=
  ∀ (i : Instr) (s s' t : State) (snap snap' : Snap),
    (i = .encrypt ∨ i = .decrypt) → s.eng = .busy snap → s'.eng = .busy snap' → snap.din = snap'.din →
    s.rk = s'.rk → s.kv = s'.kv → s.kdir = s'.kdir → s.ksize = s'.ksize → exec i s = .next t →
    ∃ t', exec i s' = .next t' ∧ t'.err = t.err ∧ (t.err = .none → t'.dout = t.dout)

/-- R98: a completion reports one code, and which, by the checks in their order. -/
def Obligations.OneCodeInCheckOrder : Prop :=
  ErrCode.code .none = 0x0#4 ∧ ErrCode.code .invalidKeyLength = 0x1#4 ∧ ErrCode.code .directionMismatch = 0x2#4 ∧
  ErrCode.code .noSchedule = 0x3#4 ∧ ErrCode.code .illegalCommand = 0x4#4 ∧
  ∀ (s : State) (snap : Snap),
    s.Inv → s.EngineMoves → s.eng = .busy snap →
    ∃ t, step s = .next t ∧ t.err =
      (match decode snap.cmd with
        | .illegal _ => .illegalCommand
        | .instr .nop => .none
        | .instr .clear => .none
        | .instr (.expandEnc keylen) => if keylen ∈ [16, 24, 32] then .none else .invalidKeyLength
        | .instr (.expandDec keylen) => if keylen ∈ [16, 24, 32] then .none else .invalidKeyLength
        | .instr .encrypt =>
          if s.kv = false then .noSchedule else if s.kdir = .decrypt then .directionMismatch else .none
        | .instr .decrypt =>
          if s.kv = false then .noSchedule else if s.kdir = .encrypt then .directionMismatch else .none)

/-- R96, R97: a completion that reports an error has no effect but its code and the end of BUSY. -/
def Obligations.FailedCommandOnlyReports : Prop :=
  ∀ (s t : State) (snap : Snap),
    s.EngineMoves → s.eng = .busy snap → step s = .next t → t.err ≠ .none →
    t = { s.turnTaken with err := t.err, eng := .idle }

/-- R28: a step changes RK, KV, KDIR or KSIZE only where it completes an EXPAND of a valid length or a CLEAR, or reset
is asserted. -/
def Obligations.ScheduleImmutable : Prop :=
  ∀ s t : State, step s = .next t →
    (t.rk = s.rk ∧ t.kv = s.kv ∧ t.kdir = s.kdir ∧ t.ksize = s.ksize) ∨
    (s.EngineMoves ∧ ∃ snap, s.eng = .busy snap ∧
      (decode snap.cmd = .instr .clear ∨
        ∃ keylen v, variant keylen = some v ∧
          (decode snap.cmd = .instr (.expandEnc keylen) ∨ decode snap.cmd = .instr (.expandDec keylen)))) ∨
    (s.InputMoves ∧ ∃ rest, s.inputs = .assertReset :: rest)

/-- R26: a step changes DOUT only where it completes an ENCRYPT or a DECRYPT without an error, or a CLEAR, or reset is
asserted. -/
def Obligations.DoutWrittenByResultsOnly : Prop :=
  ∀ s t : State, step s = .next t →
    t.dout = s.dout ∨
    (s.EngineMoves ∧ ∃ snap, s.eng = .busy snap ∧
      (decode snap.cmd = .instr .clear ∨
        ((decode snap.cmd = .instr .encrypt ∨ decode snap.cmd = .instr .decrypt) ∧ s.kv = true ∧ t.err = .none))) ∨
    (s.InputMoves ∧ ∃ rest, s.inputs = .assertReset :: rest)

/-- R94: no command's completion but CLEAR's changes KEY or DIN, and neither block command changes RK; a host's write
to KEY leaves the schedule. -/
def Obligations.CompletionsKeepKeyAndDin : Prop :=
  (∀ (i : Instr) (s t : State), i ≠ .clear → exec i s = .next t → t.key = s.key ∧ t.din = s.din) ∧
  (∀ (i : Instr) (s t : State), i = .encrypt ∨ i = .decrypt → exec i s = .next t → t.rk = s.rk) ∧
  (∀ (s : State) (off : Offset) (v : Word), (s.busWrite off v).rk = s.rk ∧ (s.busWrite off v).kv = s.kv)

/-- R30, R112, R118: a step leaves the command in flight and its operands as they are, unless it is that command's
completion or reset is asserted. -/
def Obligations.SnapHeldUntilCompletion : Prop :=
  ∀ (s t : State) (snap : Snap), s.eng = .busy snap → step s = .next t →
    t.eng = .busy snap ∨
    (s.EngineMoves ∧ complete snap.cmd s.turnTaken = .next t ∧ t.eng = .idle) ∨
    (s.InputMoves ∧ t.CoreIsReset ∧ ∃ rest, s.inputs = .assertReset :: rest)

/-- R22, R116: the frame every completion keeps: OVR and the world outside are as before, and ENG is IDLE after. -/
def Obligations.CompletionFrame : Prop :=
  ∀ (i : Instr) (s t : State), exec i s = .next t →
    t.eng = .idle ∧ t.ovr = s.ovr ∧ t.inReset = s.inReset ∧ t.inputs = s.inputs ∧ t.turns = s.turns ∧
    t.reads = s.reads ∧ t.draws = s.draws

/-! ### The whole machine -/

/-- R31 (and R112): the invariants hold after every step from a state in which they hold. -/
def Obligations.InvariantKept : Prop := ∀ s t : State, s.Inv → step s = .next t → t.Inv

/-- R31: they hold at reset. -/
def Obligations.InvariantAtReset : Prop := State.reset.Inv

/-- R38, R57, R101: the machine stops for nothing but a bus error: every other step answers a next state. That a bus
error ends the model's run is log entry 3, and that there is one while reset is asserted too is the model's choice,
log entry 6. -/
def Obligations.StopsOnBusErrorOnly : Prop :=
  ∀ s : State, s.Inv →
    (∃ t, step s = .next t) ∨
    (step s = .fault .busError ∧ s.InputMoves ∧
      ∃ a rest, s.inputs = .access a :: rest ∧ (a.size ≠ .b32 ∨ a.off.val % 4 ≠ 0))

/-! ### Arithmetic, tables and transforms (40_primitives.md) -/

/-- R64: gmul is commutative and associative, distributes over XOR, and 0x01 and 0x00 act as one and zero. -/
def Obligations.FieldMultiplication : Prop :=
  (∀ a b, gmul a b = gmul b a) ∧ (∀ a b c, gmul (gmul a b) c = gmul a (gmul b c)) ∧
  (∀ a b c, gmul a (b ^^^ c) = gmul a b ^^^ gmul a c) ∧ (∀ a, gmul a 0x01 = a) ∧ (∀ a, gmul a 0x00 = 0x00)

/-- R65: `SBOX[x] = affine(inv(x))`, where inv(0) = 0 and otherwise inv(x) is the field inverse. -/
def Obligations.SboxIsAffineOfInverse : Prop :=
  sbox 0x00 = affine 0x00 ∧ (∀ x : Byte, x ≠ 0 → ∃ y, gmul x y = 0x01) ∧
  (∀ x y : Byte, gmul x y = 0x01 → sbox x = affine y)

/-- R66: INV_SBOX is the inverse permutation of SBOX. -/
def Obligations.InverseSbox : Prop := ∀ x : Byte, invSbox (sbox x) = x ∧ sbox (invSbox x) = x

/-- R67: the round constants: rc_1 = 0x01, rc_(j+1) = xtime(rc_j), the three low bytes zero. -/
def Obligations.RoundConstants : Prop :=
  bytes (rcon 1) = [0x01, 0, 0, 0] ∧
  ∀ j, 1 ≤ j → j < 10 → bytes (rcon (j + 1)) = [xtime ((bytes (rcon j)).getD 0 0), 0, 0, 0]

/-- R70 to R73: the byte maps of ShiftRows and InvShiftRows, and that the inverse transforms invert. -/
def Obligations.SubBytesAndShiftRowsInvert : Prop :=
  (∀ (s : Block) (k : Fin 16),
    (bytesOfBlock (shiftRows s)).getD k 0 =
      (bytesOfBlock s).getD ([0, 5, 10, 15, 4, 9, 14, 3, 8, 13, 2, 7, 12, 1, 6, 11].getD k 0) 0 ∧
    (bytesOfBlock (invShiftRows s)).getD k 0 =
      (bytesOfBlock s).getD ([0, 13, 10, 7, 4, 1, 14, 11, 8, 5, 2, 15, 12, 9, 6, 3].getD k 0) 0 ∧
    (bytesOfBlock (subBytes s)).getD k 0 = sbox ((bytesOfBlock s).getD k 0) ∧
    (bytesOfBlock (invSubBytes s)).getD k 0 = invSbox ((bytesOfBlock s).getD k 0)) ∧
  (∀ s : Block, invShiftRows (shiftRows s) = s ∧ invSubBytes (subBytes s) = s)

/-- R76: the four facts the inverse cipher relies on. AddRoundKey is the XOR of two blocks (R69), so facts 2 and 4 are
one clause. -/
def Obligations.InverseCipherFacts : Prop :=
  (∀ s, invMixColumns (mixColumns s) = s ∧ mixColumns (invMixColumns s) = s) ∧
  (∀ a b, invMixColumns (addRoundKey a b) = addRoundKey (invMixColumns a) (invMixColumns b)) ∧
  (∀ s, subBytes (shiftRows s) = shiftRows (subBytes s) ∧
    invSubBytes (invShiftRows s) = invShiftRows (invSubBytes s))

/-- R77, R78: SubWord and RotWord on the bytes of a word. -/
def Obligations.WordFunctions : Prop :=
  ∀ a0 a1 a2 a3 : Byte,
    subWord (a0 ++ a1 ++ a2 ++ a3) = sbox a0 ++ sbox a1 ++ sbox a2 ++ sbox a3 ∧
    rotWord (a0 ++ a1 ++ a2 ++ a3) = a1 ++ a2 ++ a3 ++ a0

/-- R88: the textbook inverse cipher equals the equivalent inverse cipher with transformed keys, for any round keys.
-/
def Obligations.TextbookInverseAgrees : Prop :=
  ∀ (input : Block) (rk : Nat → Block) (n : Nat), 1 ≤ n →
    invCipher input rk n = eqInvCipher input (decKeys n rk) n

/-- R89: the round-trip law, in both orders, for every variant, raw key and block. -/
def Obligations.RoundTripLaw : Prop :=
  ∀ (v : Variant) (key : List Byte) (b : Block), key.length = 4 * v.nk →
    eqInvCipher (cipher b (rkGroup (keyExpansion v key)) v.rounds)
        (decKeys v.rounds (rkGroup (keyExpansion v key))) v.rounds = b ∧
    cipher (eqInvCipher b (decKeys v.rounds (rkGroup (keyExpansion v key))) v.rounds)
        (rkGroup (keyExpansion v key)) v.rounds = b

/-- R84, R85, R89, R90, R91: on the machine: EXPAND.ENC, ENCRYPT, EXPAND.DEC and DECRYPT with one key, each command's
operands as accepted, return the input words in DOUT, from any state. -/
def Obligations.MachineRoundTrip : Prop :=
  ∀ (s : State) (keylen : Nat) (v : Variant) (k : Vector Word 8) (x : Vector Word 4)
    (c1 c2 c3 c4 : Word) (k2 k4 : Vector Word 8) (x1 x3 : Vector Word 4),
    variant keylen = some v →
    ∃ e c d p,
      exec (.expandEnc keylen) { s with eng := .busy { cmd := c1, key := k, din := x1 } } = .next e ∧
      exec .encrypt { e with eng := .busy { cmd := c2, key := k2, din := x } } = .next c ∧
      exec (.expandDec keylen) { c with eng := .busy { cmd := c3, key := k, din := x3 } } = .next d ∧
      exec .decrypt { d with eng := .busy { cmd := c4, key := k4, din := c.dout } } = .next p ∧
      p.dout = x ∧ p.err = .none

/-! ### Host programs (30_encoding.md R60, R61) -/

/-- R42, R61: LOADKEY, run by the host while no completion comes between its writes, leaves word j of the key in KEYj
and changes nothing else of the core. -/
def Obligations.LoadKeyFillsKey : Prop :=
  ∀ (c : State) (v : Variant) (key : List Byte),
    c.inReset = false → key.length = 4 * v.nk →
    ∃ t, HostRun.runTurns (List.replicate v.nk .input)
        { program := loadKeyLines key, line := 0, temps := [], core := c } = .next t ∧
      (∀ j : Fin 8, t.core.key[j] = if j.val < v.nk then word key j.val else c.key[j]) ∧
      (t.core = { c with key := t.core.key, inputs := [], turns := [] })

/-- R47, R61: WAITIDLE ends, under every draw, with the core idle and `s` holding the value of STATUS, so that BUSY
reads 0 in `s` and its ERR field is the completed command's code. -/
def Obligations.WaitIdleEndsIdle : Prop :=
  ∀ (c : State) (s fresh : Nat) (ts : List Turn) (t : HostRun),
    c.inReset = false →
    HostRun.runTurns ts { program := waitIdleLines s fresh, line := 0, temps := [], core := c } = .next t →
    t.line = (waitIdleLines s fresh).length →
    t.core.eng = .idle ∧ t.temp s = t.core.statusWord ∧ (t.temp s).getLsbD 0 = false ∧
      (t.temp s).extractLsb' 8 4 = ErrCode.code t.core.err

/-- R121: a run has ended where ENG = IDLE and the host has no access left, and then, whatever turns follow, no step stops
it, it stays ended, the host reads nothing more, and the core keeps its state; where the host is not done, its own next
turns bring it to an access with the core as it was. -/
def Obligations.RunEndIsFinal : Prop :=
  (∀ h : HostRun, h.ended = true ↔ h.issuedLastAccess = true ∧ h.core.eng = .idle) ∧
  (∀ (h : HostRun) (ts : List Turn), h.ended = true →
    ∃ t, HostRun.runTurns ts h = .next t ∧ t.ended = true ∧ t.temps = h.temps ∧
      t.core = { h.core with turns := t.core.turns }) ∧
  (∀ h : HostRun, h.issuedLastAccess = false →
    ∃ n t line, HostRun.runTurns (List.replicate n .input) h = .next t ∧ t.core = h.core ∧
      t.program[t.line]? = some line ∧ line.isAccess = true)
end

