-- ==== Sys2Proof/Laws/Blocks.lean ====
section
/-! SUPPORT. Byte strings, words and blocks (R10, R12, R43, R68): the byte of a built block, blocks equal byte by byte,
and the packings undone. -/

namespace Sys2Proof

@[simp] theorem Block.byte_build (f : Fin 4 → Fin 4 → Byte) (r c : Fin 4) : (Block.build f).byte r c = f r c := by
  match r, c with
  | 0, 0 | 1, 0 | 2, 0 | 3, 0 | 0, 1 | 1, 1 | 2, 1 | 3, 1 => rfl
  | 0, 2 | 1, 2 | 2, 2 | 3, 2 | 0, 3 | 1, 3 | 2, 3 | 3, 3 => rfl

/-- A block is rebuilt from its bytes. -/
@[simp] theorem Block.build_byte (s : Block) : (Block.build fun r c => s.byte r c) = s := rfl

/-- Two blocks with the same bytes are one block. -/
theorem Block.ext_byte {s t : Block} (h : ∀ r c, s.byte r c = t.byte r c) : s = t := by
  rw [← Block.build_byte s, ← Block.build_byte t]
  simp [h]

end Sys2Proof

namespace Sys2Proof.Machine

/-- The four bytes of `{a0, a1, a2, a3}` (R10). -/
theorem bytes_append (a0 a1 a2 a3 : Byte) : bytes (a0 ++ a1 ++ a2 ++ a3) = [a0, a1, a2, a3] := by
  simp only [bytes, List.cons.injEq, and_true]
  refine ⟨?_, ?_, ?_, ?_⟩ <;> ext i hi <;> simp <;> grind

/-- A word is its four bytes, most significant first (R10). -/
theorem word_bytes (w : Word) : word (bytes w) 0 = w := by
  simp only [word, bytes, List.getD_cons_zero, List.getD_cons_succ, Nat.mul_zero, Nat.zero_add]
  ext i hi
  simp
  grind

/-- A block's words give the block back (R43). -/
@[simp] theorem blockOfWords_wordsOfBlock (s : Block) : blockOfWords (wordsOfBlock s) = s := by
  simp [blockOfWords, wordsOfBlock, bytesOf, word, bytesOfBlock, bytes_append, blockOfBytes, Block.build]

/-- Word `i` of a string of words' bytes is word `i` (R10, R42). -/
theorem word_bytesOf (ws : List Word) (i : Nat) : word (bytesOf ws) i = ws.getD i 0 := by
  induction ws generalizing i with
  | nil => simp [bytesOf, word]
  | cons w ws ih =>
    cases i with
    | zero => simpa [bytesOf, word, bytes] using word_bytes w
    | succ i =>
      rw [List.getD_cons_succ, ← ih]
      simp [bytesOf, word, bytes, Nat.mul_add]

/-- The bytes of a string of words: four for each. -/
@[simp] theorem bytesOf_length (ws : List Word) : (bytesOf ws).length = 4 * ws.length := by
  induction ws with
  | nil => rfl
  | cons w ws ih => simp_all [bytesOf, bytes]; omega

/-- The words of a block whose bytes come from four words are those words (R43). -/
theorem wordsOfBlock_blockOfBytes (w0 w1 w2 w3 : Word) :
    wordsOfBlock (blockOfBytes (bytesOf [w0, w1, w2, w3])) = #v[w0, w1, w2, w3] := by
  have h : ∀ w, word (bytes w) 0 = w := word_bytes
  simp only [word, bytes, List.getD_cons_zero, List.getD_cons_succ, Nat.mul_zero, Nat.zero_add] at h
  simp [wordsOfBlock, blockOfBytes, Block.build, bytesOfBlock, bytesOf, bytes, word, h]

/-- Four words give themselves back through the block they hold (R43). -/
@[simp] theorem wordsOfBlock_blockOfWords (ws : Vector Word 4) : wordsOfBlock (blockOfWords ws) = ws := by
  obtain ⟨⟨l⟩, h⟩ := ws
  match l, h with
  | [w0, w1, w2, w3], _ => exact wordsOfBlock_blockOfBytes w0 w1 w2 w3

/-- AddRoundKey is its own inverse (R69). -/
@[simp] theorem addRoundKey_addRoundKey (s k : Block) : addRoundKey (addRoundKey s k) k = s :=
  Block.ext_byte fun r c => by simp [addRoundKey]

end Sys2Proof.Machine
end

