-- ==== Sys2Proof/Laws/HostProgram.lean ====
section
/-! SUPPORT. The lines a host still runs (R60, R121): the line reached after `k` of them, and that as many as the program
has lines decide whether an access comes. -/

namespace Sys2Proof.Machine

variable (h : HostRun)

/-- The lines a host runs to its next access depend on its program and its temporaries alone, not on the core. -/
theorem HostRun.accessWithin_congr {h g : HostRun} (hp : h.program = g.program) (ht : h.temps = g.temps) (n l : Nat) :
    h.accessWithin n l = g.accessWithin n l := by
  have hn : ∀ l line, h.nextLine l line = g.nextLine l line := by
    intro l line
    have htemp : ∀ x, h.temp x = g.temp x := fun x => by rw [HostRun.temp, ht, HostRun.temp]
    have htarget : ∀ x, h.target x = g.target x := fun x => by rw [HostRun.target, hp, HostRun.target]
    cases line <;> simp only [HostRun.nextLine, htemp, htarget]
  induction n generalizing l with
  | zero => rfl
  | succ n ih => simp only [HostRun.accessWithin, hp, hn, ih]

/-- Whether line `l` is an access. -/
def HostRun.accessAt (l : Nat) : Bool := (h.program[l]?).any HostLine.isAccess

/-- The line after line `l`; past the program's end the host stays. -/
def HostRun.lineAfter (l : Nat) : Nat := (h.program[l]?).elim l (h.nextLine l)

theorem HostRun.accessWithin_succ (n l : Nat) :
    h.accessWithin (n + 1) l = (h.accessAt l || (decide (l < h.program.length) && h.accessWithin n (h.lineAfter l))) := by
  cases e : h.program[l]? with
  | none => simp_all [HostRun.accessWithin, HostRun.accessAt]
  | some line =>
    have hl : l < h.program.length := (List.getElem?_eq_some_iff.mp e).1
    simp [HostRun.accessWithin, HostRun.accessAt, HostRun.lineAfter, hl]

/-- Past the end there is no access and no way back. -/
theorem HostRun.past_end {l : Nat} (hl : h.program.length ≤ l) : h.lineAfter l = l ∧ h.accessAt l = false := by
  simp [HostRun.lineAfter, HostRun.accessAt, List.getElem?_eq_none hl]

/-- An access comes within `n` lines exactly where one of the next `n` lines is one. -/
theorem HostRun.accessWithin_iff (n l : Nat) :
    h.accessWithin n l = true ↔ ∃ k < n, h.accessAt (h.lineAfter^[k] l) = true := by
  induction n generalizing l with
  | zero => simp [HostRun.accessWithin]
  | succ n ih =>
    rw [HostRun.accessWithin_succ, Bool.or_eq_true, Bool.and_eq_true, ih, decide_eq_true_iff]
    constructor
    · rintro (h0 | ⟨-, k, hk, ha⟩)
      · exact ⟨0, by omega, h0⟩
      · exact ⟨k + 1, by omega, ha⟩
    · rintro ⟨k, hk, ha⟩
      cases k with
      | zero => exact .inl ha
      | succ k =>
        by_cases hl : l < h.program.length
        · exact .inr ⟨hl, k, by omega, ha⟩
        · obtain ⟨hf, hn⟩ := h.past_end (Nat.not_lt.mp hl)
          rw [Function.iterate_fixed hf, hn] at ha
          cases ha

/-- An access that comes at all comes within as many lines as the program has: the lines before the first one are
different lines of the program. -/
theorem HostRun.accessWithin_saturates {n l : Nat} (ha : h.accessWithin n l = true) :
    h.accessWithin h.program.length l = true := by
  have hex : ∃ k, h.accessAt (h.lineAfter^[k] l) = true := by
    obtain ⟨k, -, hk⟩ := (h.accessWithin_iff n l).mp ha
    exact ⟨k, hk⟩
  classical
  let k := Nat.find hex
  have hk : h.accessAt (h.lineAfter^[k] l) = true := Nat.find_spec hex
  have hsplit : ∀ i ≤ k, h.lineAfter^[k - i] (h.lineAfter^[i] l) = h.lineAfter^[k] l := by
    intro i hi
    rw [← Function.iterate_add_apply, Nat.sub_add_cancel hi]
  have hlt : ∀ i ≤ k, h.lineAfter^[i] l < h.program.length := by
    intro i hi
    by_contra hc
    obtain ⟨hf, hn⟩ := h.past_end (Nat.not_lt.mp hc)
    rw [← hsplit i hi, Function.iterate_fixed hf, hn] at hk
    cases hk
  have hinj : ∀ i j, i < j → j ≤ k → h.lineAfter^[i] l ≠ h.lineAfter^[j] l := by
    intro i j hij hj he
    have h2 : h.accessAt (h.lineAfter^[k - j + i] l) = true := by
      rw [Function.iterate_add_apply, he, hsplit j hj]
      exact hk
    exact absurd h2 (Nat.find_min hex (show k - j + i < k by omega))
  have hcard := Fintype.card_le_of_injective (α := Fin (k + 1)) (β := Fin h.program.length)
    (fun i => ⟨h.lineAfter^[i.val] l, hlt _ (by omega)⟩) (by
      intro i j he
      have he' : h.lineAfter^[i.val] l = h.lineAfter^[j.val] l := congrArg Fin.val he
      by_contra hne
      rcases Nat.lt_or_gt_of_ne (fun hv => hne (Fin.ext hv)) with hij | hij
      · exact hinj _ _ hij (by omega) he'
      · exact hinj _ _ hij (by omega) he'.symm)
  simp only [Fintype.card_fin] at hcard
  exact (h.accessWithin_iff _ l).mpr ⟨k, by omega, hk⟩

/-- A host that makes no access from line `l` on makes none from the line after it on either. -/
theorem HostRun.accessWithin_lineAfter {l : Nat} (ha : h.accessWithin h.program.length l = false) :
    h.accessAt l = false ∧ h.accessWithin h.program.length (h.lineAfter l) = false := by
  have hnot : h.accessWithin (h.program.length + 1) l = false := by
    by_contra hc
    rw [h.accessWithin_saturates (Bool.eq_true_of_not_eq_false hc)] at ha
    cases ha
  by_cases hl : l < h.program.length
  · simpa [HostRun.accessWithin_succ, hl] using hnot
  · obtain ⟨hf, hn⟩ := h.past_end (Nat.not_lt.mp hl)
    exact ⟨hn, by rwa [hf]⟩

/-- The host's turn at a line that is no access, or past the end: it comes to the line after it, and nothing else
changes. -/
theorem HostRun.step_input_of_no_access (ha : h.accessAt h.line = false) :
    h.step .input = .next { h with line := h.lineAfter h.line } := by
  cases e : h.program[h.line]? with
  | none => simp [HostRun.step, HostRun.lineAfter, e]
  | some line =>
    cases line <;> simp_all [HostRun.step, HostRun.lineAfter, HostRun.accessAt, HostLine.isAccess, HostRun.runLine]

end Sys2Proof.Machine
end

