-- ==== Sys2Proof/Laws/State.lean ====
section
/-! SUPPORT. What each named update of State leaves in each field: one lemma a field, so that no proof unfolds a record
update. -/

namespace Sys2Proof.Machine

variable (s : State)

/-! ### State.finish -/

@[simp] theorem State.finish_key (e : ErrCode) : (State.finish e s).key = s.key := rfl
@[simp] theorem State.finish_din (e : ErrCode) : (State.finish e s).din = s.din := rfl
@[simp] theorem State.finish_dout (e : ErrCode) : (State.finish e s).dout = s.dout := rfl
@[simp] theorem State.finish_rk (e : ErrCode) : (State.finish e s).rk = s.rk := rfl
@[simp] theorem State.finish_kv (e : ErrCode) : (State.finish e s).kv = s.kv := rfl
@[simp] theorem State.finish_kdir (e : ErrCode) : (State.finish e s).kdir = s.kdir := rfl
@[simp] theorem State.finish_ksize (e : ErrCode) : (State.finish e s).ksize = s.ksize := rfl
@[simp] theorem State.finish_ovr (e : ErrCode) : (State.finish e s).ovr = s.ovr := rfl
@[simp] theorem State.finish_err (e : ErrCode) : (State.finish e s).err = e := rfl
@[simp] theorem State.finish_eng (e : ErrCode) : (State.finish e s).eng = .idle := rfl
@[simp] theorem State.finish_inReset (e : ErrCode) : (State.finish e s).inReset = s.inReset := rfl
@[simp] theorem State.finish_inputs (e : ErrCode) : (State.finish e s).inputs = s.inputs := rfl
@[simp] theorem State.finish_turns (e : ErrCode) : (State.finish e s).turns = s.turns := rfl
@[simp] theorem State.finish_reads (e : ErrCode) : (State.finish e s).reads = s.reads := rfl
@[simp] theorem State.finish_draws (e : ErrCode) : (State.finish e s).draws = s.draws := rfl

/-! ### State.raiseError -/

@[simp] theorem State.raiseError_key (e : ErrCode) : (State.raiseError e s).key = s.key := rfl
@[simp] theorem State.raiseError_din (e : ErrCode) : (State.raiseError e s).din = s.din := rfl
@[simp] theorem State.raiseError_dout (e : ErrCode) : (State.raiseError e s).dout = s.dout := rfl
@[simp] theorem State.raiseError_rk (e : ErrCode) : (State.raiseError e s).rk = s.rk := rfl
@[simp] theorem State.raiseError_kv (e : ErrCode) : (State.raiseError e s).kv = s.kv := rfl
@[simp] theorem State.raiseError_kdir (e : ErrCode) : (State.raiseError e s).kdir = s.kdir := rfl
@[simp] theorem State.raiseError_ksize (e : ErrCode) : (State.raiseError e s).ksize = s.ksize := rfl
@[simp] theorem State.raiseError_ovr (e : ErrCode) : (State.raiseError e s).ovr = s.ovr := rfl
@[simp] theorem State.raiseError_err (e : ErrCode) : (State.raiseError e s).err = e := rfl
@[simp] theorem State.raiseError_eng (e : ErrCode) : (State.raiseError e s).eng = .idle := rfl
@[simp] theorem State.raiseError_inReset (e : ErrCode) : (State.raiseError e s).inReset = s.inReset := rfl
@[simp] theorem State.raiseError_inputs (e : ErrCode) : (State.raiseError e s).inputs = s.inputs := rfl
@[simp] theorem State.raiseError_turns (e : ErrCode) : (State.raiseError e s).turns = s.turns := rfl
@[simp] theorem State.raiseError_reads (e : ErrCode) : (State.raiseError e s).reads = s.reads := rfl
@[simp] theorem State.raiseError_draws (e : ErrCode) : (State.raiseError e s).draws = s.draws := rfl

/-! ### State.holdSchedule -/

@[simp] theorem State.holdSchedule_key (v : Variant) (d : Direction) (k : Nat → Block) : (State.holdSchedule v d k s).key = s.key := rfl
@[simp] theorem State.holdSchedule_din (v : Variant) (d : Direction) (k : Nat → Block) : (State.holdSchedule v d k s).din = s.din := rfl
@[simp] theorem State.holdSchedule_dout (v : Variant) (d : Direction) (k : Nat → Block) : (State.holdSchedule v d k s).dout = s.dout := rfl
@[simp] theorem State.holdSchedule_rk (v : Variant) (d : Direction) (k : Nat → Block) : (State.holdSchedule v d k s).rk = scheduleStore v.rounds k := rfl
@[simp] theorem State.holdSchedule_kv (v : Variant) (d : Direction) (k : Nat → Block) : (State.holdSchedule v d k s).kv = true := rfl
@[simp] theorem State.holdSchedule_kdir (v : Variant) (d : Direction) (k : Nat → Block) : (State.holdSchedule v d k s).kdir = d := rfl
@[simp] theorem State.holdSchedule_ksize (v : Variant) (d : Direction) (k : Nat → Block) : (State.holdSchedule v d k s).ksize = v.ksize := rfl
@[simp] theorem State.holdSchedule_ovr (v : Variant) (d : Direction) (k : Nat → Block) : (State.holdSchedule v d k s).ovr = s.ovr := rfl
@[simp] theorem State.holdSchedule_err (v : Variant) (d : Direction) (k : Nat → Block) : (State.holdSchedule v d k s).err = s.err := rfl
@[simp] theorem State.holdSchedule_eng (v : Variant) (d : Direction) (k : Nat → Block) : (State.holdSchedule v d k s).eng = s.eng := rfl
@[simp] theorem State.holdSchedule_inReset (v : Variant) (d : Direction) (k : Nat → Block) : (State.holdSchedule v d k s).inReset = s.inReset := rfl
@[simp] theorem State.holdSchedule_inputs (v : Variant) (d : Direction) (k : Nat → Block) : (State.holdSchedule v d k s).inputs = s.inputs := rfl
@[simp] theorem State.holdSchedule_turns (v : Variant) (d : Direction) (k : Nat → Block) : (State.holdSchedule v d k s).turns = s.turns := rfl
@[simp] theorem State.holdSchedule_reads (v : Variant) (d : Direction) (k : Nat → Block) : (State.holdSchedule v d k s).reads = s.reads := rfl
@[simp] theorem State.holdSchedule_draws (v : Variant) (d : Direction) (k : Nat → Block) : (State.holdSchedule v d k s).draws = s.draws := rfl

/-! ### State.erase -/

@[simp] theorem State.erase_key : (State.erase s).key = Vector.replicate 8 0 := rfl
@[simp] theorem State.erase_din : (State.erase s).din = Vector.replicate 4 0 := rfl
@[simp] theorem State.erase_dout : (State.erase s).dout = Vector.replicate 4 0 := rfl
@[simp] theorem State.erase_rk : (State.erase s).rk = Vector.replicate 15 Block.zero := rfl
@[simp] theorem State.erase_kv : (State.erase s).kv = false := rfl
@[simp] theorem State.erase_kdir : (State.erase s).kdir = .encrypt := rfl
@[simp] theorem State.erase_ksize : (State.erase s).ksize = .none := rfl
@[simp] theorem State.erase_ovr : (State.erase s).ovr = s.ovr := rfl
@[simp] theorem State.erase_err : (State.erase s).err = s.err := rfl
@[simp] theorem State.erase_eng : (State.erase s).eng = s.eng := rfl
@[simp] theorem State.erase_inReset : (State.erase s).inReset = s.inReset := rfl
@[simp] theorem State.erase_inputs : (State.erase s).inputs = s.inputs := rfl
@[simp] theorem State.erase_turns : (State.erase s).turns = s.turns := rfl
@[simp] theorem State.erase_reads : (State.erase s).reads = s.reads := rfl
@[simp] theorem State.erase_draws : (State.erase s).draws = s.draws := rfl

/-! ### State.accept -/

@[simp] theorem State.accept_key (v : Word) : (State.accept v s).key = s.key := rfl
@[simp] theorem State.accept_din (v : Word) : (State.accept v s).din = s.din := rfl
@[simp] theorem State.accept_dout (v : Word) : (State.accept v s).dout = s.dout := rfl
@[simp] theorem State.accept_rk (v : Word) : (State.accept v s).rk = s.rk := rfl
@[simp] theorem State.accept_kv (v : Word) : (State.accept v s).kv = s.kv := rfl
@[simp] theorem State.accept_kdir (v : Word) : (State.accept v s).kdir = s.kdir := rfl
@[simp] theorem State.accept_ksize (v : Word) : (State.accept v s).ksize = s.ksize := rfl
@[simp] theorem State.accept_ovr (v : Word) : (State.accept v s).ovr = s.ovr := rfl
@[simp] theorem State.accept_err (v : Word) : (State.accept v s).err = s.err := rfl
@[simp] theorem State.accept_eng (v : Word) : (State.accept v s).eng = .busy { cmd := v, key := s.key, din := s.din } := rfl
@[simp] theorem State.accept_inReset (v : Word) : (State.accept v s).inReset = s.inReset := rfl
@[simp] theorem State.accept_inputs (v : Word) : (State.accept v s).inputs = s.inputs := rfl
@[simp] theorem State.accept_turns (v : Word) : (State.accept v s).turns = s.turns := rfl
@[simp] theorem State.accept_reads (v : Word) : (State.accept v s).reads = s.reads := rfl
@[simp] theorem State.accept_draws (v : Word) : (State.accept v s).draws = s.draws := rfl

/-! ### State.drop -/

@[simp] theorem State.drop_key : (State.drop s).key = s.key := rfl
@[simp] theorem State.drop_din : (State.drop s).din = s.din := rfl
@[simp] theorem State.drop_dout : (State.drop s).dout = s.dout := rfl
@[simp] theorem State.drop_rk : (State.drop s).rk = s.rk := rfl
@[simp] theorem State.drop_kv : (State.drop s).kv = s.kv := rfl
@[simp] theorem State.drop_kdir : (State.drop s).kdir = s.kdir := rfl
@[simp] theorem State.drop_ksize : (State.drop s).ksize = s.ksize := rfl
@[simp] theorem State.drop_ovr : (State.drop s).ovr = true := rfl
@[simp] theorem State.drop_err : (State.drop s).err = s.err := rfl
@[simp] theorem State.drop_eng : (State.drop s).eng = s.eng := rfl
@[simp] theorem State.drop_inReset : (State.drop s).inReset = s.inReset := rfl
@[simp] theorem State.drop_inputs : (State.drop s).inputs = s.inputs := rfl
@[simp] theorem State.drop_turns : (State.drop s).turns = s.turns := rfl
@[simp] theorem State.drop_reads : (State.drop s).reads = s.reads := rfl
@[simp] theorem State.drop_draws : (State.drop s).draws = s.draws := rfl

/-! ### State.assertReset -/

@[simp] theorem State.assertReset_key : (State.assertReset s).key = Vector.replicate 8 0 := rfl
@[simp] theorem State.assertReset_din : (State.assertReset s).din = Vector.replicate 4 0 := rfl
@[simp] theorem State.assertReset_dout : (State.assertReset s).dout = Vector.replicate 4 0 := rfl
@[simp] theorem State.assertReset_rk : (State.assertReset s).rk = Vector.replicate 15 Block.zero := rfl
@[simp] theorem State.assertReset_kv : (State.assertReset s).kv = false := rfl
@[simp] theorem State.assertReset_kdir : (State.assertReset s).kdir = .encrypt := rfl
@[simp] theorem State.assertReset_ksize : (State.assertReset s).ksize = .none := rfl
@[simp] theorem State.assertReset_ovr : (State.assertReset s).ovr = false := rfl
@[simp] theorem State.assertReset_err : (State.assertReset s).err = .none := rfl
@[simp] theorem State.assertReset_eng : (State.assertReset s).eng = .idle := rfl
@[simp] theorem State.assertReset_inReset : (State.assertReset s).inReset = true := rfl
@[simp] theorem State.assertReset_inputs : (State.assertReset s).inputs = s.inputs := rfl
@[simp] theorem State.assertReset_turns : (State.assertReset s).turns = s.turns := rfl
@[simp] theorem State.assertReset_reads : (State.assertReset s).reads = s.reads := rfl
@[simp] theorem State.assertReset_draws : (State.assertReset s).draws = s.draws := rfl

/-! ### State.releaseReset -/

@[simp] theorem State.releaseReset_key : (State.releaseReset s).key = s.key := rfl
@[simp] theorem State.releaseReset_din : (State.releaseReset s).din = s.din := rfl
@[simp] theorem State.releaseReset_dout : (State.releaseReset s).dout = s.dout := rfl
@[simp] theorem State.releaseReset_rk : (State.releaseReset s).rk = s.rk := rfl
@[simp] theorem State.releaseReset_kv : (State.releaseReset s).kv = s.kv := rfl
@[simp] theorem State.releaseReset_kdir : (State.releaseReset s).kdir = s.kdir := rfl
@[simp] theorem State.releaseReset_ksize : (State.releaseReset s).ksize = s.ksize := rfl
@[simp] theorem State.releaseReset_ovr : (State.releaseReset s).ovr = s.ovr := rfl
@[simp] theorem State.releaseReset_err : (State.releaseReset s).err = s.err := rfl
@[simp] theorem State.releaseReset_eng : (State.releaseReset s).eng = s.eng := rfl
@[simp] theorem State.releaseReset_inReset : (State.releaseReset s).inReset = false := rfl
@[simp] theorem State.releaseReset_inputs : (State.releaseReset s).inputs = s.inputs := rfl
@[simp] theorem State.releaseReset_turns : (State.releaseReset s).turns = s.turns := rfl
@[simp] theorem State.releaseReset_reads : (State.releaseReset s).reads = s.reads := rfl
@[simp] theorem State.releaseReset_draws : (State.releaseReset s).draws = s.draws := rfl

/-! ### State.turnTaken -/

@[simp] theorem State.turnTaken_key : (State.turnTaken s).key = s.key := rfl
@[simp] theorem State.turnTaken_din : (State.turnTaken s).din = s.din := rfl
@[simp] theorem State.turnTaken_dout : (State.turnTaken s).dout = s.dout := rfl
@[simp] theorem State.turnTaken_rk : (State.turnTaken s).rk = s.rk := rfl
@[simp] theorem State.turnTaken_kv : (State.turnTaken s).kv = s.kv := rfl
@[simp] theorem State.turnTaken_kdir : (State.turnTaken s).kdir = s.kdir := rfl
@[simp] theorem State.turnTaken_ksize : (State.turnTaken s).ksize = s.ksize := rfl
@[simp] theorem State.turnTaken_ovr : (State.turnTaken s).ovr = s.ovr := rfl
@[simp] theorem State.turnTaken_err : (State.turnTaken s).err = s.err := rfl
@[simp] theorem State.turnTaken_eng : (State.turnTaken s).eng = s.eng := rfl
@[simp] theorem State.turnTaken_inReset : (State.turnTaken s).inReset = s.inReset := rfl
@[simp] theorem State.turnTaken_inputs : (State.turnTaken s).inputs = s.inputs := rfl
@[simp] theorem State.turnTaken_turns : (State.turnTaken s).turns = s.turns.tail := rfl
@[simp] theorem State.turnTaken_reads : (State.turnTaken s).reads = s.reads := rfl
@[simp] theorem State.turnTaken_draws : (State.turnTaken s).draws = s.draws := rfl

/-! ### State.inputTaken -/

@[simp] theorem State.inputTaken_key : (State.inputTaken s).key = s.key := rfl
@[simp] theorem State.inputTaken_din : (State.inputTaken s).din = s.din := rfl
@[simp] theorem State.inputTaken_dout : (State.inputTaken s).dout = s.dout := rfl
@[simp] theorem State.inputTaken_rk : (State.inputTaken s).rk = s.rk := rfl
@[simp] theorem State.inputTaken_kv : (State.inputTaken s).kv = s.kv := rfl
@[simp] theorem State.inputTaken_kdir : (State.inputTaken s).kdir = s.kdir := rfl
@[simp] theorem State.inputTaken_ksize : (State.inputTaken s).ksize = s.ksize := rfl
@[simp] theorem State.inputTaken_ovr : (State.inputTaken s).ovr = s.ovr := rfl
@[simp] theorem State.inputTaken_err : (State.inputTaken s).err = s.err := rfl
@[simp] theorem State.inputTaken_eng : (State.inputTaken s).eng = s.eng := rfl
@[simp] theorem State.inputTaken_inReset : (State.inputTaken s).inReset = s.inReset := rfl
@[simp] theorem State.inputTaken_inputs : (State.inputTaken s).inputs = s.inputs.tail := rfl
@[simp] theorem State.inputTaken_turns : (State.inputTaken s).turns = s.turns.tail := rfl
@[simp] theorem State.inputTaken_reads : (State.inputTaken s).reads = s.reads := rfl
@[simp] theorem State.inputTaken_draws : (State.inputTaken s).draws = s.draws := rfl

end Sys2Proof.Machine
end

