-- ==== Sys2Proof/Laws/Ops.lean ====
section
/-! SUPPORT. What each shared operation can do, said once: the completion's common shape, the commands, the aperture, the
inputs and the step. Later proofs cite these and do not unfold the operations. -/

namespace Sys2Proof.Machine

variable {s t : State}

/-! ### Completion -/

@[simp] theorem inFlight_busy {snap : Snap} (k : Snap → Result) (h : s.eng = .busy snap) : inFlight s k = k snap := by
  simp [inFlight, h]

@[simp] theorem inFlight_idle (k : Snap → Result) (h : s.eng = .idle) : inFlight s k = .fault .noCommandInFlight := by
  simp [inFlight, h]

/-- A completion that answers a next state ran from a command in flight. -/
theorem inFlight_next {k : Snap → Result} (h : inFlight s k = .next t) :
    ∃ snap, s.eng = .busy snap ∧ k snap = .next t := by
  cases e : s.eng with
  | idle => simp [e] at h
  | busy snap => exact ⟨snap, rfl, by simpa [e] using h⟩

theorem completeIllegal_next (h : completeIllegal s = .next t) :
    (∃ snap, s.eng = .busy snap) ∧ t = s.raiseError .illegalCommand := by
  obtain ⟨snap, hb, ht⟩ := inFlight_next h
  exact ⟨⟨snap, hb⟩, by simpa using ht.symm⟩

/-- Everything an EXPAND can do: report a bad length, or hold a schedule (R84, R85). -/
theorem expandCommand_next {d : Direction} {f : Variant → List Byte → Nat → Block} {keylen : Nat}
    (h : expandCommand d f keylen s = .next t) :
    ∃ snap, s.eng = .busy snap ∧
      ((variant keylen = none ∧ t = s.raiseError .invalidKeyLength) ∨
        ∃ v, variant keylen = some v ∧ t = (s.holdSchedule v d (f v (snap.rawKey v))).finish .none) := by
  obtain ⟨snap, hb, ht⟩ := inFlight_next h
  refine ⟨snap, hb, ?_⟩
  cases hv : variant keylen with
  | none => exact .inl ⟨rfl, by simpa [hv] using ht.symm⟩
  | some v => exact .inr ⟨v, rfl, by simpa [hv] using ht.symm⟩

/-- Everything a block command can do: report no schedule, report the direction, or write DOUT (R90, R91). -/
theorem blockCommand_next {d : Direction} {f : Block → (Nat → Block) → Nat → Block}
    (h : blockCommand d f s = .next t) :
    ∃ snap, s.eng = .busy snap ∧
      ((s.kv = false ∧ t = s.raiseError .noSchedule) ∨
        (s.kv = true ∧ s.kdir ≠ d ∧ t = s.raiseError .directionMismatch) ∨
          (s.kv = true ∧ s.kdir = d ∧ ∃ n, roundCount s.ksize = some n ∧
            t = State.finish .none { s with dout := wordsOfBlock (f snap.block s.roundKey n) })) := by
  obtain ⟨snap, hb, ht⟩ := inFlight_next h
  refine ⟨snap, hb, ?_⟩
  cases hk : s.kv with
  | false => exact .inl ⟨rfl, by simpa [hk] using ht.symm⟩
  | true =>
    by_cases hd : s.kdir = d
    · cases hn : roundCount s.ksize with
      | none => simp [hk, hd, hn] at ht
      | some n => exact .inr (.inr ⟨rfl, hd, n, rfl, by simpa [hk, hd, hn] using ht.symm⟩)
    · exact .inr (.inl ⟨rfl, hd, by simpa [hk, hd] using ht.symm⟩)

theorem execNop_next (h : execNop s = .next t) : ∃ snap, s.eng = .busy snap ∧ t = s.finish .none := by
  obtain ⟨snap, hb, ht⟩ := inFlight_next h
  exact ⟨snap, hb, by simpa using ht.symm⟩

theorem execClear_next (h : execClear s = .next t) : ∃ snap, s.eng = .busy snap ∧ t = s.erase.finish .none := by
  obtain ⟨snap, hb, ht⟩ := inFlight_next h
  exact ⟨snap, hb, by simpa using ht.symm⟩

/-- Everything a command's completion can do, whatever the command: report an error, succeed with no other effect,
hold a schedule, write DOUT, or erase. -/
theorem exec_next {i : Instr} (h : exec i s = .next t) :
    (∃ snap, s.eng = .busy snap) ∧
      ((∃ e, t = s.finish e) ∨
        (∃ v d k keylen, variant keylen = some v ∧ (i = .expandEnc keylen ∨ i = .expandDec keylen) ∧
          t = (s.holdSchedule v d k).finish .none) ∨
        (∃ w, (i = .encrypt ∨ i = .decrypt) ∧ s.kv = true ∧ t = State.finish .none { s with dout := w }) ∨
        (i = .clear ∧ t = s.erase.finish .none)) := by
  cases i with
  | nop =>
    obtain ⟨snap, hb, ht⟩ := execNop_next h
    exact ⟨⟨snap, hb⟩, .inl ⟨_, ht⟩⟩
  | expandEnc keylen =>
    obtain ⟨snap, hb, ⟨-, ht⟩ | ⟨v, hv, ht⟩⟩ := expandCommand_next h
    · exact ⟨⟨snap, hb⟩, .inl ⟨_, ht⟩⟩
    · exact ⟨⟨snap, hb⟩, .inr (.inl ⟨v, _, _, keylen, hv, .inl rfl, ht⟩)⟩
  | expandDec keylen =>
    obtain ⟨snap, hb, ⟨-, ht⟩ | ⟨v, hv, ht⟩⟩ := expandCommand_next h
    · exact ⟨⟨snap, hb⟩, .inl ⟨_, ht⟩⟩
    · exact ⟨⟨snap, hb⟩, .inr (.inl ⟨v, _, _, keylen, hv, .inr rfl, ht⟩)⟩
  | encrypt =>
    obtain ⟨snap, hb, ⟨-, ht⟩ | ⟨-, -, ht⟩ | ⟨hk, -, n, -, ht⟩⟩ := blockCommand_next h
    · exact ⟨⟨snap, hb⟩, .inl ⟨_, ht⟩⟩
    · exact ⟨⟨snap, hb⟩, .inl ⟨_, ht⟩⟩
    · exact ⟨⟨snap, hb⟩, .inr (.inr (.inl ⟨_, .inl rfl, hk, ht⟩))⟩
  | decrypt =>
    obtain ⟨snap, hb, ⟨-, ht⟩ | ⟨-, -, ht⟩ | ⟨hk, -, n, -, ht⟩⟩ := blockCommand_next h
    · exact ⟨⟨snap, hb⟩, .inl ⟨_, ht⟩⟩
    · exact ⟨⟨snap, hb⟩, .inl ⟨_, ht⟩⟩
    · exact ⟨⟨snap, hb⟩, .inr (.inr (.inl ⟨_, .inr rfl, hk, ht⟩))⟩
  | clear =>
    obtain ⟨snap, hb, ht⟩ := execClear_next h
    exact ⟨⟨snap, hb⟩, .inr (.inr (.inr ⟨rfl, ht⟩))⟩

/-- Everything the completion step of a word can do (R116). -/
theorem complete_next {cmd : Word} (h : complete cmd s = .next t) :
    ((∃ why, decode cmd = .illegal why) ∧ t = s.raiseError .illegalCommand) ∨
      ∃ i, decode cmd = .instr i ∧ exec i s = .next t := by
  cases hd : decode cmd with
  | illegal why => exact .inl ⟨⟨why, rfl⟩, (completeIllegal_next (by simpa [complete, hd] using h)).2⟩
  | instr i => exact .inr ⟨i, rfl, by simpa [complete, hd] using h⟩

/-- Everything the engine's turn can do. -/
theorem engineTurn_next (h : engineTurn s = .next t) :
    (s.eng = .idle ∧ t = s) ∨ ∃ snap, s.eng = .busy snap ∧ complete snap.cmd s = .next t := by
  cases e : s.eng with
  | idle => exact .inl ⟨rfl, by simpa [engineTurn, e] using h.symm⟩
  | busy snap => exact .inr ⟨snap, rfl, by simpa [engineTurn, e] using h⟩

theorem engineTurn_busy {snap : Snap} (h : s.eng = .busy snap) : engineTurn s = complete snap.cmd s := by
  simp only [engineTurn, h]

/-! ### The round-key store -/

/-- `RK[r]` after the store has been written from `f`. -/
theorem roundKey_store (s : State) (f : Nat → Block) {r : Nat} (h : r < 15) :
    State.roundKey { s with rk := roundKeyStore f } r = f r := by
  match r, h with
  | 0, _ | 1, _ | 2, _ | 3, _ | 4, _ | 5, _ | 6, _ | 7, _ => rfl
  | 8, _ | 9, _ | 10, _ | 11, _ | 12, _ | 13, _ | 14, _ => rfl

/-- RK after a successful EXPAND: the schedule in 0..N, zero above (R84). -/
theorem roundKey_holdSchedule (s : State) (v : Variant) (d : Direction) (k : Nat → Block) {r : Nat} (h : r < 15) :
    (s.holdSchedule v d k).roundKey r = if r ≤ v.rounds then k r else Block.zero :=
  roundKey_store s _ h

/-- RK read through the state depends on RK alone. -/
theorem roundKey_congr (h : s.rk = t.rk) (r : Nat) : s.roundKey r = t.roundKey r := by
  simp [State.roundKey, h]

/-- RK of all zeros reads as zero. -/
theorem roundKey_zero (h : s.rk = Vector.replicate 15 Block.zero) (r : Nat) : s.roundKey r = Block.zero := by
  have hl : s.rk.toList = List.replicate 15 Block.zero := by rw [h]; rfl
  rw [State.roundKey, hl, List.getD_eq_getElem?_getD, List.getElem?_replicate]
  split <;> rfl

/-! ### The aperture -/

/-- The length operand names exactly the three variants (R83). -/
theorem variant_eq_some {keylen : Nat} {v : Variant} : variant keylen = some v ↔ keylen = 4 * v.nk := by
  unfold variant
  cases v <;> simp only [Variant.nk] <;> split_ifs <;> simp_all

/-- What an admitted write leaves alone, wherever it goes. -/
theorem busWrite_frame (s : State) (off : Offset) (v : Word) :
    (s.busWrite off v).dout = s.dout ∧ (s.busWrite off v).rk = s.rk ∧ (s.busWrite off v).kv = s.kv ∧
      (s.busWrite off v).kdir = s.kdir ∧ (s.busWrite off v).ksize = s.ksize ∧ (s.busWrite off v).err = s.err ∧
      (s.busWrite off v).inReset = s.inReset ∧ (s.busWrite off v).inputs = s.inputs ∧
      (s.busWrite off v).turns = s.turns ∧ (s.busWrite off v).reads = s.reads ∧
      (s.busWrite off v).draws = s.draws := by
  unfold State.busWrite State.offer
  split <;> (try split) <;> simp

/-- An offer's effect on ENG: acceptance while IDLE, none while BUSY. -/
theorem busWrite_busy {off : Offset} {v : Word} {snap : Snap} (h : s.eng = .busy snap) :
    (s.busWrite off v).eng = .busy snap := by
  unfold State.busWrite State.offer
  rw [h]
  split <;> (try split) <;> simp_all

/-! ### Inputs and the step -/

/-- Everything an input can do. -/
theorem input_next {i : Input} (h : s.input i = .next t) :
    (i = .assertReset ∧ t = s.assertReset) ∨ (i = .releaseReset ∧ t = s.releaseReset) ∨
      ∃ a, i = .access a ∧ a.admitted = true ∧
        ((s.inReset = true ∧ t = s.performInReset a) ∨ (s.inReset = false ∧ t = s.perform a)) := by
  cases i with
  | assertReset => exact .inl ⟨rfl, by simpa [State.input] using h.symm⟩
  | releaseReset => exact .inr (.inl ⟨rfl, by simpa [State.input] using h.symm⟩)
  | access a =>
    refine .inr (.inr ⟨a, rfl, ?_⟩)
    cases ha : a.admitted with
    | false => simp [State.input, ha] at h
    | true =>
      cases hr : s.inReset with
      | true => exact ⟨rfl, .inl ⟨rfl, by simpa [State.input, ha, hr] using h.symm⟩⟩
      | false => exact ⟨rfl, .inr ⟨rfl, by simpa [State.input, ha, hr] using h.symm⟩⟩

/-- Everything the outside world's turn can do. -/
theorem inputTurn_next (h : inputTurn s = .next t) :
    (s.inputs = [] ∧ t = s) ∨
      ∃ i rest, s.inputs = i :: rest ∧ State.input { s with inputs := rest } i = .next t := by
  cases e : s.inputs with
  | nil => exact .inl ⟨rfl, by simpa [inputTurn, e] using h.symm⟩
  | cons i rest => exact .inr ⟨i, rest, rfl, by simpa [inputTurn, e] using h⟩

@[simp] theorem turnTaken_of_nil (h : s.turns = []) : s.turnTaken = s := by
  cases s; simp_all [State.turnTaken]

theorem step_engine (h : s.EngineMoves) : step s = engineTurn s.turnTaken := by
  obtain h | ⟨h, hb⟩ := h
  · cases e : s.turns with
    | nil => simp [e] at h
    | cons a rest =>
      obtain rfl : a = .engine := by simpa [e] using h
      simp [step, e, State.turnTaken]
  · cases e : s.eng with
    | idle => exact absurd e hb
    | busy snap => simp [step, h, e]

theorem step_input (h : s.InputMoves) : step s = inputTurn s.turnTaken := by
  obtain h | ⟨h, hb⟩ := h
  · cases e : s.turns with
    | nil => simp [e] at h
    | cons a rest =>
      obtain rfl : a = .input := by simpa [e] using h
      simp [step, e, State.turnTaken]
  · simp [step, h, hb]

/-- One of the two moves. -/
theorem engineMoves_or_inputMoves (s : State) : s.EngineMoves ∨ s.InputMoves := by
  cases e : s.turns with
  | nil =>
    by_cases hb : s.eng = .idle
    · exact .inr (.inr ⟨e, hb⟩)
    · exact .inl (.inr ⟨e, hb⟩)
  | cons a rest =>
    cases a
    · exact .inr (.inl (by simp [e]))
    · exact .inl (.inl (by simp [e]))

/-- Everything a step can do: the engine's turn or the outside world's, with the turn used up. -/
theorem step_next (h : step s = .next t) :
    (s.EngineMoves ∧ engineTurn s.turnTaken = .next t) ∨ (s.InputMoves ∧ inputTurn s.turnTaken = .next t) := by
  obtain hm | hm := engineMoves_or_inputMoves s
  · exact .inl ⟨hm, by rwa [step_engine hm] at h⟩
  · exact .inr ⟨hm, by rwa [step_input hm] at h⟩

/-- A run of any machine goes on from an answered step. -/
theorem run_succ_of (M : Host.Core) (k : Nat) {a b : M.State} (h : M.step a = .next b) :
    M.run (k + 1) a = M.run k b := by
  rw [Host.Core.run, h]

/-- A run goes on from an answered step. -/
theorem run_succ (k : Nat) (h : step s = .next t) : core.run (k + 1) s = core.run k t := run_succ_of core k h

/-- Where the outside world has the turn and an input has come, a step is that input's. -/
theorem step_of_input {i : Input} {rest : List Input} (hm : s.InputMoves) (hi : s.inputs = i :: rest) :
    step s = s.inputTaken.input i := by
  rw [step_input hm]
  simp [inputTurn, hi, State.turnTaken, State.inputTaken]

/-- Where the engine has the turn and a command is in flight, a step is its completion. -/
theorem step_of_busy {snap : Snap} (hm : s.EngineMoves) (hb : s.eng = .busy snap) :
    step s = complete snap.cmd s.turnTaken := by
  rw [step_engine hm, engineTurn_busy (snap := snap) (by simpa using hb)]

/-! ### The slots of the map (R35) -/

theorem slotAt_key (off : Offset) (j : Fin 8) (h : off.val = 0x10 + 4 * j.val) : slotAt off = .key j := by
  have hall : ∀ (j : Fin 8) (off : Offset), off.val = 0x10 + 4 * j.val → slotAt off = .key j := by decide
  exact hall j off h

theorem slotAt_din (off : Offset) (j : Fin 4) (h : off.val = 0x30 + 4 * j.val) : slotAt off = .din j := by
  have hall : ∀ (j : Fin 4) (off : Offset), off.val = 0x30 + 4 * j.val → slotAt off = .din j := by decide
  exact hall j off h

theorem slotAt_dout (off : Offset) (j : Fin 4) (h : off.val = 0x40 + 4 * j.val) : slotAt off = .dout j := by
  have hall : ∀ (j : Fin 4) (off : Offset), off.val = 0x40 + 4 * j.val → slotAt off = .dout j := by decide
  exact hall j off h

end Sys2Proof.Machine
end

