-- ==== Sys2Proof/Laws/PerInstr.lean ====
section
/-! SUPPORT. Statements for every command, one lemma a constructor: its encoding is its row of the opcode map (R56, R59). -/

namespace Sys2Proof.Laws

/-- The match of the command's row (R56). -/
def rowMatch : Instr → Word
  | .nop => 0x00000000#32
  | .expandEnc _ => 0x00000001#32
  | .expandDec _ => 0x00000011#32
  | .encrypt => 0x00000002#32
  | .decrypt => 0x00000003#32
  | .clear => 0x00000004#32

/-- The mask of the command's row (R56). -/
def rowMask : Instr → Word
  | .nop => 0xFFFFFFFF#32
  | .expandEnc _ => 0xFFFF00FF#32
  | .expandDec _ => 0xFFFF00FF#32
  | .encrypt => 0xFFFFFFFF#32
  | .decrypt => 0xFFFFFFFF#32
  | .clear => 0xFFFFFFFF#32

/-- Every length byte, shifted into place, misses the bits of EXPAND's mask (R51, R56). -/
theorem encodeKeylen_masked (keylen : Nat) :
    (0x00000001#32 ||| encodeKeylen keylen) &&& 0xFFFF00FF#32 = 0x00000001#32 ∧
      (0x00000011#32 ||| encodeKeylen keylen) &&& 0xFFFF00FF#32 = 0x00000011#32 := by
  have h : ∀ b : BitVec 8,
      (0x00000001#32 ||| b.setWidth 32 <<< 8) &&& 0xFFFF00FF#32 = 0x00000001#32 ∧
        (0x00000011#32 ||| b.setWidth 32 <<< 8) &&& 0xFFFF00FF#32 = 0x00000011#32 := by decide
  exact h (BitVec.ofNat 8 keylen)

namespace EncodeMatches

/-- The command's encoding matches its row of the opcode map, whatever its operand. -/
def Statement (i : Instr) : Prop := encode i &&& rowMask i = rowMatch i

theorem nop : Statement .nop := by unfold Statement; decide

theorem expandEnc (keylen : Nat) : Statement (.expandEnc keylen) := (encodeKeylen_masked keylen).1

theorem expandDec (keylen : Nat) : Statement (.expandDec keylen) := (encodeKeylen_masked keylen).2

theorem encrypt : Statement .encrypt := by unfold Statement; decide

theorem decrypt : Statement .decrypt := by unfold Statement; decide

theorem clear : Statement .clear := by unfold Statement; decide

end EncodeMatches

end Sys2Proof.Laws
end

