-- ==== Sys2Proof/Tests/Slice0.lean ====
section
/-! SUPPORT. The model's own tests, each against a value of 95_test_vectors.md, and for every obligation with hypotheses a
concrete state and operands that meet them. -/

namespace Sys2Proof.Tests

open Sys2Proof Sys2Proof.Machine

/-! ### Helpers -/

/-- The value `f` has in the next state, where there is one. -/
def outcome {α : Type} (r : Result) (f : State → α) : Option α :=
  match r with
  | .next t => some (f t)
  | .fault _ => none
  | .refused _ => none

/-- `s` with the word `v` accepted and the engine to move. -/
def flying (v : Word) (s : State) : State := State.withFetchWord s 32 v.toNat

/-- `s` with the input `i` to come next. -/
def given (i : Input) (s : State) : State := { s with turns := [.input], inputs := [i] }

/-- The state after the command word `v` has completed. -/
def completed (v : Word) (s : State) : State :=
  match step (flying v s) with
  | .next t => t
  | .fault _ => s
  | .refused _ => s

/-- The KAT key of V-SRC-3; its first four words are V-SRC-1's key, its first six V-SRC-2's. -/
def katKey : Vector Word 8 :=
  #v[0x00010203, 0x04050607, 0x08090a0b, 0x0c0d0e0f, 0x10111213, 0x14151617, 0x18191a1b, 0x1c1d1e1f]

/-- The KAT plaintext. -/
def katText : Vector Word 4 := #v[0x00112233, 0x44556677, 0x8899aabb, 0xccddeeff]

/-- Reset, with the KAT key in KEY and `d` in DIN. -/
def keyed (d : Vector Word 4) : State := { State.reset with key := katKey, din := d }

/-- A state whose STATUS shows a held AES-128 schedule of direction `d`. -/
def holding (d : Direction) : State := { State.reset with kv := true, kdir := d, ksize := .aes128 }

/-- A read of offset `off`. -/
def rd (off : Offset) : Input := .access (.read .b32 off)

/-- A write of `v` to offset `off`. -/
def wr (off : Offset) (v : Word) : Input := .access (.write .b32 off v)

/-! ### WellFormed -/

theorem test_wf_refuses_256 :
    Instr.wf (.expandEnc 256) = false ∧ Instr.wf (.expandDec 256) = false ∧ assemble (.expandEnc 256) = none ∧
      assemble (.expandDec 256) = none := by decide

theorem test_wf_admits_other_lengths :
    assemble (.expandEnc 255) = some 0x0000FF01 ∧ assemble (.expandDec 17) = some 0x00001111 ∧
      assemble .nop = some 0 ∧ assemble .encrypt = some 2 ∧ assemble .decrypt = some 3 ∧
      assemble .clear = some 4 := by decide

/-! ### Decoding: the fields RSVB, KEYLEN, RSVA, DIR, OP of R51 written out -/

theorem test_decode_nop :
    decode (0b0000000000000000#16 ++ 0b00000000#8 ++ 0b000#3 ++ 0b0#1 ++ 0b0000#4) = .instr .nop := by decide

theorem test_decode_expandEnc :
    decode (0b0000000000000000#16 ++ 0b00010000#8 ++ 0b000#3 ++ 0b0#1 ++ 0b0001#4) = .instr (.expandEnc 16) ∧
    decode (0b0000000000000000#16 ++ 0b00100001#8 ++ 0b000#3 ++ 0b0#1 ++ 0b0001#4) = .instr (.expandEnc 33) := by
  decide

theorem test_decode_expandDec :
    decode (0b0000000000000000#16 ++ 0b00011000#8 ++ 0b000#3 ++ 0b1#1 ++ 0b0001#4) = .instr (.expandDec 24) ∧
    decode (0b0000000000000000#16 ++ 0b11111111#8 ++ 0b000#3 ++ 0b1#1 ++ 0b0001#4) = .instr (.expandDec 255) := by
  decide

theorem test_decode_encrypt :
    decode (0b0000000000000000#16 ++ 0b00000000#8 ++ 0b000#3 ++ 0b0#1 ++ 0b0010#4) = .instr .encrypt := by decide

theorem test_decode_decrypt :
    decode (0b0000000000000000#16 ++ 0b00000000#8 ++ 0b000#3 ++ 0b0#1 ++ 0b0011#4) = .instr .decrypt := by decide

theorem test_decode_clear :
    decode (0b0000000000000000#16 ++ 0b00000000#8 ++ 0b000#3 ++ 0b0#1 ++ 0b0100#4) = .instr .clear := by decide

/-- The illegal words of section 2.5. -/
theorem test_decode_illegal :
    [0x00000005, 0x0000000F, 0x00000010, 0x00000012, 0x00000014, 0x00000102, 0x00001002, 0x00000021, 0x00000081,
      0x00010001, 0x80002001, 0x00010F01, 0xFFFFFFFF].all
      (fun w => (decodeTableWord 32 w).isNone) = true := by decide

/-! ### Arithmetic and tables (section 2.1) -/

theorem test_field :
    xtime 0x57 = 0xae ∧ xtime 0xae = 0x47 ∧ xtime 0x80 = 0x1b ∧ gmul 0x57 0x83 = 0xc1 ∧ gmul 0x57 0x13 = 0xfe ∧
      sbox 0x00 = 0x63 ∧ sbox 0x53 = 0xed ∧ sbox 0xff = 0x16 ∧ invSbox 0x63 = 0x00 ∧ invSbox 0x16 = 0xff ∧
      invSbox 0x00 = 0x52 := by decide

theorem test_words :
    (List.range 10).map (fun j => rcon (j + 1)) =
        [0x01000000, 0x02000000, 0x04000000, 0x08000000, 0x10000000, 0x20000000, 0x40000000, 0x80000000,
          0x1b000000, 0x36000000] ∧
      subWord 0x09cf4f3c = 0x018a84eb ∧ rotWord 0x09cf4f3c = 0xcf4f3c09 := by decide

theorem test_columns :
    mixColumn ⟨0xdb, 0x13, 0x53, 0x45⟩ = ⟨0x8e, 0x4d, 0xa1, 0xbc⟩ ∧
      mixColumn ⟨0xf2, 0x0a, 0x22, 0x5c⟩ = ⟨0x9f, 0xdc, 0x58, 0x9d⟩ ∧
      mixColumn ⟨0xd4, 0xd4, 0xd4, 0xd5⟩ = ⟨0xd5, 0xd5, 0xd7, 0xd6⟩ ∧
      mixColumn ⟨0x2d, 0x26, 0x31, 0x4c⟩ = ⟨0x4d, 0x7e, 0xbd, 0xf8⟩ ∧
      invMixColumn ⟨0x8e, 0x4d, 0xa1, 0xbc⟩ = ⟨0xdb, 0x13, 0x53, 0x45⟩ ∧
      invMixColumn ⟨0x4d, 0x7e, 0xbd, 0xf8⟩ = ⟨0x2d, 0x26, 0x31, 0x4c⟩ := by decide

theorem test_shiftRows :
    wordsOfBlock (shiftRows (blockOfWords #v[0x00010203, 0x04050607, 0x08090a0b, 0x0c0d0e0f])) =
        #v[0x00050a0f, 0x04090e03, 0x080d0207, 0x0c01060b] ∧
      wordsOfBlock (invShiftRows (blockOfWords #v[0x00010203, 0x04050607, 0x08090a0b, 0x0c0d0e0f])) =
        #v[0x000d0a07, 0x04010e0b, 0x0805020f, 0x0c090603] := by decide

/-! ### Commands, one step each -/

/-- V-CTL-1, V-CTL-3. -/
theorem test_nop :
    outcome (step (flying 0x00000000 { State.reset with err := .invalidKeyLength })) State.statusWord =
        some 0x00000000 ∧
      outcome (step (flying 0x00000000 { holding .encrypt with ovr := true })) State.statusWord =
        some 0x0000008A := by decide

set_option maxRecDepth 100000 in
/-- V-KS-128, V-KS-192, V-KS-256: the last round keys and STATUS. -/
theorem test_expandEnc :
    outcome (step (flying 0x00001001 (keyed katText))) (fun t => (wordsOfBlock (t.roundKey 10), t.statusWord)) =
        some (#v[0x13111d7f, 0xe3944a17, 0xf307a78b, 0x4d2b30c5], 0x0000000A) ∧
      outcome (step (flying 0x00001801 (keyed katText))) (fun t => (wordsOfBlock (t.roundKey 12), t.statusWord)) =
        some (#v[0xa4970a33, 0x1a78dc09, 0xc418c271, 0xe3a41d5d], 0x00000012) ∧
      outcome (step (flying 0x00002001 (keyed katText))) (fun t => (wordsOfBlock (t.roundKey 14), t.statusWord)) =
        some (#v[0x24fc79cc, 0xbf0979e9, 0x371ac23c, 0x6d68de36], 0x0000001A) := by decide

/-- V-KS-ERR-1, V-KS-ERR-3. -/
theorem test_expandEnc_length :
    outcome (step (flying 0x00000001 State.reset)) State.statusWord = some 0x00000100 ∧
      outcome (step (flying 0x00000F01 (holding .encrypt))) State.statusWord = some 0x0000010A := by decide

set_option maxRecDepth 100000 in
/-- V-KS-128, V-KS-256: a middle round key, an entry above N, and STATUS. -/
theorem test_expandDec :
    outcome (step (flying 0x00001011 (keyed katText)))
        (fun t => (wordsOfBlock (t.roundKey 1), wordsOfBlock (t.roundKey 11), t.statusWord)) =
        some (#v[0x8c56dff0, 0x825dd3f9, 0x805ad3fc, 0x8659d7fd], #v[0, 0, 0, 0], 0x0000000E) ∧
      outcome (step (flying 0x00002011 (keyed katText))) (fun t => (wordsOfBlock (t.roundKey 13), t.statusWord)) =
        some (#v[0x34f1d1ff, 0xbfceaa2f, 0xfce9e25f, 0x2558016e], 0x0000001E) := by decide

/-- V-KS-ERR-2, V-SRC-7. -/
theorem test_expandDec_length :
    outcome (step (flying 0x0000FF11 State.reset)) State.statusWord = some 0x00000100 ∧
      outcome (step (flying 0x00002111 State.reset)) State.statusWord = some 0x00000100 := by decide

set_option maxRecDepth 100000 in
/-- V-SRC-1, V-SRC-2, V-SRC-3. -/
theorem test_encrypt :
    outcome (step (flying 0x00000002 (completed 0x00001001 (keyed katText)))) State.dout =
        some #v[0x69c4e0d8, 0x6a7b0430, 0xd8cdb780, 0x70b4c55a] ∧
      outcome (step (flying 0x00000002 (completed 0x00001801 (keyed katText)))) State.dout =
        some #v[0xdda97ca4, 0x864cdfe0, 0x6eaf70a0, 0xec0d7191] ∧
      outcome (step (flying 0x00000002 (completed 0x00002001 (keyed katText)))) State.dout =
        some #v[0x8ea2b7ca, 0x516745bf, 0xeafc4990, 0x4b496089] := by decide

/-- V-BLK-ERR-1, V-BLK-ERR-4. -/
theorem test_encrypt_errors :
    outcome (step (flying 0x00000002 State.reset)) State.statusWord = some 0x00000300 ∧
      outcome (step (flying 0x00000002 (holding .decrypt))) (fun t => (t.statusWord, t.dout)) =
        some (0x0000020E, #v[0, 0, 0, 0]) := by decide

set_option maxRecDepth 100000 in
/-- V-SRC-4, V-SRC-6, V-DEC-1. -/
theorem test_decrypt :
    outcome
        (step (flying 0x00000003
          (completed 0x00001011 (keyed #v[0x69c4e0d8, 0x6a7b0430, 0xd8cdb780, 0x70b4c55a])))) State.dout =
        some katText ∧
      outcome
        (step (flying 0x00000003
          (completed 0x00002011 (keyed #v[0x8ea2b7ca, 0x516745bf, 0xeafc4990, 0x4b496089])))) State.dout =
        some katText ∧
      outcome (step (flying 0x00000003 (completed 0x00001011 (keyed katText)))) State.dout =
        some #v[0x762a5ab5, 0x0929189c, 0xefdb9943, 0x4790aad8] := by decide

/-- V-BLK-ERR-2, V-BLK-ERR-3. -/
theorem test_decrypt_errors :
    outcome (step (flying 0x00000003 State.reset)) State.statusWord = some 0x00000300 ∧
      outcome (step (flying 0x00000003 { holding .encrypt with dout := #v[0x69c4e0d8, 0, 0, 0] }))
        (fun t => (t.statusWord, t.dout)) = some (0x0000020A, #v[0x69c4e0d8, 0, 0, 0]) := by decide

/-- V-CTL-6, and CLEAR zeroes KEY and DIN (V-CTL-4). -/
theorem test_clear :
    outcome (step (flying 0x00000004 { keyed katText with ovr := true, kv := true, ksize := .aes128 }))
        (fun t => (t.statusWord, t.key, t.din)) = some (0x00000080, Vector.replicate 8 0, Vector.replicate 4 0) := by
  decide

/-- V-KS-ERR-7. -/
theorem test_illegal_wins :
    outcome (step (flying 0x00010F01 (holding .encrypt))) State.statusWord = some 0x0000040A := by decide

/-! ### The register interface, one step each (section 2.6) -/

/-- V-IF-1, V-IF-2, V-IF-5 and a DIN and a DOUT read. -/
theorem test_reads :
    [(0x00, 0), (0x10, 0), (0x08, 0), (0x0C, 0), (0x50, 0), (0x7C, 0), (0x3C, 0xccddeeff), (0x4C, 0)].all
      (fun (p : Offset × Word) =>
        decide (outcome (step (given (rd p.1) (keyed katText))) State.reads = some [p.2])) = true := by decide

/-- V-IF-3, V-IF-4, V-IF-6 and the last KEY slot. -/
theorem test_writes :
    outcome (step (given (wr 0x30 0xdeadbeef) State.reset)) (fun t => t.din[0]) = some 0xdeadbeef ∧
      outcome (step (given (wr 0x2C 0x1c1d1e1f) State.reset)) (fun t => t.key[7]) = some 0x1c1d1e1f ∧
      outcome (step (given (wr 0x40 0x12345678) State.reset)) State.dout = some #v[0, 0, 0, 0] ∧
      outcome (step (given (wr 0x50 0xffffffff) State.reset)) State.statusWord = some 0 := by decide

/-- V-IF-7, V-IF-8, V-IF-9. -/
theorem test_bus_errors :
    step (given (.access (.write .b8 0x00 2)) State.reset) = .fault .busError ∧
      step (given (.access (.read .b32 0x02)) State.reset) = .fault .busError ∧
      step (given (.access (.read .b16 0x04)) State.reset) = .fault .busError := ⟨rfl, rfl, rfl⟩

/-- V-IF-10, V-IF-11, V-IF-12. -/
theorem test_overrun_bit :
    outcome (step (given (wr 0x04 0x00000080) { holding .encrypt with ovr := true })) State.statusWord =
        some 0x0000000A ∧
      outcome (step (given (wr 0x04 0x0000007F) { holding .encrypt with ovr := true })) State.statusWord =
        some 0x0000008A ∧
      outcome (step (given (wr 0x04 0xFFFFFFFF) { holding .encrypt with err := .directionMismatch }))
        State.statusWord = some 0x0000020A := by decide

/-- V-IF-13: STATUS while BUSY, and the command in flight stays. -/
theorem test_drop :
    outcome (step (given (wr 0x00 0x00000003) (flying 0x00000002 (holding .encrypt))))
        (fun t => (t.statusWord, t.eng)) =
      some (0x0000008B, .busy { cmd := 2, key := Vector.replicate 8 0, din := Vector.replicate 4 0 }) := by decide

set_option maxRecDepth 100000 in
/-- V-IF-14: a DIN write after acceptance. -/
theorem test_snap :
    outcome (step { flying 0x00000002 (completed 0x00001001 (keyed katText)) with din := #v[0xdeadbeef, 0, 0, 0] })
        (fun t => (t.din[0], t.dout)) =
      some (0xdeadbeef, #v[0x69c4e0d8, 0x6a7b0430, 0xd8cdb780, 0x70b4c55a]) := by decide

/-- V-IF-15: a KEY write while CLEAR is in flight. -/
theorem test_clear_overwrites :
    outcome (step { flying 0x00000004 State.reset with key := katKey }) (fun t => t.key[0]) = some 0 := by decide

/-- V-IF-18, from a state with a command in flight. -/
theorem test_reset_input :
    outcome (step (given .assertReset (flying 0x00000002 (keyed katText)))) (fun t => (t.statusWord, t.key, t.eng)) =
      some (0, Vector.replicate 8 0, .idle) := by decide

/-! ### Host programs -/

/-- The expansions of R61, as P1 and P2 write them out. -/
theorem test_pseudo :
    Pseudo.expand 1 (.run (.expandEnc 24) 9) = [.w 0x00 0x00001801, .label 1, .r 0x04 9, .bnz 9 0x1 1] ∧
      Pseudo.expand 1 (.loadBlk (bytesOf katText.toList)) =
        [.w 0x30 0x00112233, .w 0x34 0x44556677, .w 0x38 0x8899aabb, .w 0x3C 0xccddeeff] ∧
      Pseudo.expand 1 (.loadKey (bytesOf [0x00010203, 0x04050607, 0x08090a0b, 0x0c0d0e0f])) =
        [.w 0x10 0x00010203, .w 0x14 0x04050607, .w 0x18 0x08090a0b, .w 0x1C 0x0c0d0e0f] ∧
      Pseudo.expand 1 (.readBlk 0 1 2 3) = [.r 0x40 0, .r 0x44 1, .r 0x48 2, .r 0x4C 3] ∧
      Pseudo.expand 1 (.cmd .decrypt) = [.w 0x00 0x00000003] ∧ (Pseudo.expand 1 .clrKey).length = 8 := by decide

/-- Operands outside R59, R42 and R12 are refused, and those inside are not. -/
theorem test_pseudo_refused :
    Pseudo.assemble 1 (.cmd (.expandEnc 256)) = none ∧ Pseudo.assemble 1 (.run (.expandDec 256) 9) = none ∧
      Pseudo.assemble 1 (.loadKey (List.replicate 15 0)) = none ∧
      Pseudo.assemble 1 (.loadKey (List.replicate 36 0)) = none ∧
      Pseudo.assemble 1 (.loadBlk (List.replicate 15 0)) = none ∧
      Pseudo.assemble 1 (.cmd (.expandEnc 15)) = some [.w 0x00 0x00000F01] ∧
      (Pseudo.assemble 1 (.loadKey (List.replicate 24 0))).map List.length = some 6 := by decide

/-- R121: a loop of host-only lines after the last access leaves the run ended, and the access of such a loop does not. -/
theorem test_ended :
    (HostRun.start [.label 1, .r 0x04 9, .bnz 9 0x1 1]).ended = false ∧
      HostRun.ended
          { HostRun.start [.r 0x04 9, .label 1, .bnz 9 0x2 1, .label 2] with line := 1, temps := [(9, 0x0000000A)] } =
        true ∧
      HostRun.ended { HostRun.start [.label 1, .r 0x04 9, .bnz 9 0x1 1] with line := 2, temps := [(9, 1)] } = false ∧
      HostRun.ended { HostRun.start [.w 0x00 0x00000000] with line := 1, core := flying 0 State.reset } = false := by
  decide

/-! ### Witnesses: states and operands that meet the obligations' hypotheses -/

/-- A host has the turn, nothing is in flight. -/
theorem given_moves (i : Input) (s : State) : (given i s).InputMoves := .inl rfl

/-- The engine has the turn. -/
theorem flying_moves (v : Word) (s : State) : (flying v s).EngineMoves := .inl rfl

/-- The SNAP of `flying v State.reset`. -/
def snapOf (v : Word) : Snap := { cmd := v, key := Vector.replicate 8 0, din := Vector.replicate 4 0 }

/-- The invariants hold with a command in flight and no schedule. -/
theorem flying_inv : (flying 0x00000000 State.reset).Inv where
  kv_iff := by decide
  no_schedule := fun _ => by decide
  unused_zero := fun h => absurd h (by decide)
  busy_iff := by decide
  err_code := by decide
  reset_held := fun h => absurd h (by decide)

/-- The invariants hold while reset is asserted and about to be released. -/
theorem releasing_inv : State.Inv (given .releaseReset { State.reset with inReset := true }) where
  kv_iff := by decide
  no_schedule := fun _ => by decide
  unused_zero := fun h => absurd h (by decide)
  busy_iff := by decide
  err_code := by decide
  reset_held := fun _ => ⟨rfl, rfl, rfl, rfl, rfl, rfl, rfl, rfl, rfl, rfl⟩

/-- ... and where the engine has the turn. -/
theorem inReset_inv : State.Inv { State.reset with inReset := true, turns := [.engine] } where
  kv_iff := by decide
  no_schedule := fun _ => by decide
  unused_zero := fun h => absurd h (by decide)
  busy_iff := by decide
  err_code := by decide
  reset_held := fun _ => ⟨rfl, rfl, rfl, rfl, rfl, rfl, rfl, rfl, rfl, rfl⟩

theorem witness_decodeOfEncode : Instr.wf (.expandDec 255) = true ∧ Instr.wf (.expandEnc 0) = true := by decide

theorem witness_encodeOfDecode : ∃ v i, decode v = .instr i := ⟨0x0000FF11#32, .expandDec 255, by decide⟩

theorem witness_illegalWord :
    (∃ s v rest, State.InputMoves s ∧ s.inputs = .access (.write .b32 0x00 v) :: rest ∧ s.inReset = false ∧
      s.eng = .idle ∧ ∃ why, decode v = .illegal why) ∧
    (∃ s snap why, State.EngineMoves s ∧ s.eng = .busy snap ∧ decode snap.cmd = .illegal why) :=
  ⟨⟨given (wr 0x00 0x00000005) State.reset, 0x00000005, [], given_moves _ _, rfl, rfl, rfl, .reservedOp, by decide⟩,
    ⟨flying 0x00010F01 State.reset, snapOf 0x00010F01, .expandReservedBits, flying_moves _ _, rfl, by decide⟩⟩

theorem witness_stepRunsDecodedCommand :
    ∃ s snap i, State.EngineMoves s ∧ s.eng = .busy snap ∧ decode snap.cmd = .instr i :=
  ⟨flying 0x0000FF11 State.reset, snapOf 0x0000FF11, .expandDec 255, flying_moves _ _, rfl, by decide⟩

theorem witness_idleWrite :
    ∃ s v rest, State.InputMoves s ∧ s.inputs = .access (.write .b32 0x00 v) :: rest ∧ s.inReset = false ∧
      s.eng = .idle :=
  ⟨given (wr 0x00 0x00000002) State.reset, _, [], given_moves _ _, rfl, rfl, rfl⟩

/-- Writes at both ends of KEY and DIN, to STATUS and to CTRL, while BUSY. -/
theorem witness_busyWrite (off : Offset) :
    ∃ s snap v rest, State.InputMoves s ∧ s.inputs = .access (.write .b32 off v) :: rest ∧ s.inReset = false ∧
      s.eng = .busy snap :=
  ⟨given (wr off 0xFFFFFFFF) (flying 0x00000002 State.reset), snapOf 0x00000002, _, [], given_moves _ _, rfl, rfl, rfl⟩

/-- The ends of the KEY, DIN and DOUT slots, which `witness_busyWrite` and `witness_access` admit. -/
theorem witness_slots :
    (0x10 : Offset).val = 0x10 + 4 * (0 : Fin 8).val ∧ (0x2C : Offset).val = 0x10 + 4 * (7 : Fin 8).val ∧
      (0x30 : Offset).val = 0x30 + 4 * (0 : Fin 4).val ∧ (0x3C : Offset).val = 0x30 + 4 * (3 : Fin 4).val ∧
      (0x40 : Offset).val = 0x40 + 4 * (0 : Fin 4).val ∧ (0x4C : Offset).val = 0x40 + 4 * (3 : Fin 4).val ∧
      [0x00, 0x04, 0x08, 0x0C, 0x50, 0x7C].all (fun off : Offset => decide (off.val % 4 = 0)) = true := by decide

theorem witness_busyOperandWrites_exec :
    (∃ s t, exec .nop s = .next t) ∧ (∃ s t, exec .clear s = .next t) ∧ State.reset.eng = .idle :=
  ⟨⟨flying 0 State.reset, _, rfl⟩, ⟨flying 4 State.reset, _, rfl⟩, rfl⟩

theorem witness_readRacesCompletion :
    ∃ s t snap rest, s.eng = .busy snap ∧ s.inReset = false ∧ (0x40 : Offset).val % 4 = 0 ∧
      s.inputs = .access (.read .b32 0x40) :: rest ∧ complete snap.cmd s = .next t :=
  ⟨{ flying 0x00000004 State.reset with inputs := [rd 0x40] }, _, snapOf 0x00000004, [], rfl, rfl, rfl, rfl, rfl⟩

theorem witness_commandInFlightCompletes :
    ∃ s snap, State.Inv s ∧ s.InputsAdmitted ∧ Input.assertReset ∉ s.inputs ∧ s.eng = .busy snap :=
  ⟨flying 0x00000000 State.reset, snapOf 0, flying_inv, fun _ h => (List.not_mem_nil h).elim, by decide, rfl⟩

/-- Any access, of any width, at any offset, out of reset. -/
theorem witness_access (a : Access) :
    ∃ s rest, State.InputMoves s ∧ s.inputs = .access a :: rest ∧ s.inReset = false :=
  ⟨given (.access a) State.reset, [], given_moves _ _, rfl, rfl⟩

theorem witness_refusedAccess :
    (Access.write .b8 0x00 2).size ≠ .b32 ∧ (Access.read .b64 0x7C).size ≠ .b32 ∧
      (Access.read .b32 0x7F).off.val % 4 ≠ 0 := by decide

theorem witness_overrunFlag :
    (∃ s v rest, State.InputMoves s ∧ s.inputs = .access (.write .b32 0x00 v) :: rest ∧ s.inReset = false ∧
      s.eng ≠ .idle) ∧
    (∃ s rest, State.InputMoves s ∧ s.inputs = .assertReset :: rest) ∧
    (∃ s t, State.EngineMoves s ∧ step s = .next t) :=
  ⟨⟨given (wr 0x00 0x00000003) (flying 2 State.reset), _, [], given_moves _ _, rfl, rfl, by decide⟩,
    ⟨given .assertReset State.reset, [], given_moves _ _, rfl⟩,
    ⟨flying 0 State.reset, _, flying_moves _ _, rfl⟩⟩

theorem witness_readsReveal : ∃ s snap, State.eng s = .busy snap := ⟨flying 2 State.reset, _, rfl⟩

theorem witness_apertureAtBase : base + 0x80 ≤ base + 0x80 := Nat.le_refl _

/-- Reset held: the invariants, and each input of the clauses. -/
theorem witness_resetInput :
    (∃ s rest, State.InputMoves s ∧ s.inputs = .releaseReset :: rest ∧ s.Inv ∧ s.inReset = true) ∧
    (∃ s v rest, State.InputMoves s ∧ s.inputs = .access (.write .b32 0x00 v) :: rest ∧ (0x00 : Offset).val % 4 = 0 ∧
      s.inReset = true) ∧
    (∃ s rest, State.InputMoves s ∧ s.inputs = .access (.read .b32 0x7C) :: rest ∧ (0x7C : Offset).val % 4 = 0 ∧
      s.inReset = true) ∧
    (∃ s, State.Inv s ∧ s.inReset = true ∧ s.EngineMoves) := by
  exact ⟨⟨given .releaseReset { State.reset with inReset := true }, [], given_moves _ _, rfl, releasing_inv, rfl⟩,
    ⟨given (wr 0x00 2) { State.reset with inReset := true }, _, [], given_moves _ _, rfl, rfl, rfl⟩,
    ⟨given (rd 0x7C) { State.reset with inReset := true }, [], given_moves _ _, rfl, rfl, rfl⟩,
    ⟨{ State.reset with inReset := true, turns := [.engine] }, inReset_inv, rfl, .inl rfl⟩⟩

/-- A command in flight: NopCompletes, ClearCompletes, and with the lengths below the EXPAND statements. -/
theorem witness_busy (v : Word) : ∃ s snap, State.eng s = .busy snap ∧ snap.cmd = tableWord 32 v.toNat :=
  ⟨flying v State.reset, _, rfl, rfl⟩

theorem witness_keyLengths :
    (16, Variant.aes128) ∈ [(16, Variant.aes128), (24, .aes192), (32, .aes256)] ∧
      (32, Variant.aes256) ∈ [(16, Variant.aes128), (24, .aes192), (32, .aes256)] ∧
      [0, 15, 17, 23, 25, 31, 33, 255].all (fun n => decide (n ≠ 16 ∧ n ≠ 24 ∧ n ≠ 32)) = true ∧
      variant 16 = some .aes128 ∧ variant 32 = some .aes256 := by decide

theorem witness_expandWords :
    0x0000FF01#32 &&& 0xFFFF00FF#32 = 0x00000001#32 ∧ 0x00000011#32 &&& 0xFFFF00FF#32 = 0x00000011#32 := by decide

/-- A raw key of each variant's length. -/
theorem witness_rawKey (v : Variant) : (List.replicate (4 * v.nk) (0 : Byte)).length = 4 * v.nk := by simp

theorem witness_keyExpansionIndices :
    0 < Variant.nk .aes128 ∧ Variant.nk .aes256 ≤ 59 ∧ 59 < 4 * (Variant.rounds .aes256 + 1) ∧ 9 < Variant.rounds .aes128 := by
  decide

/-- The three cases of ENCRYPT, and each size of schedule. -/
theorem witness_encryptCases :
    (∃ s snap, State.eng s = .busy snap ∧ s.kv = false) ∧
    (∃ s snap, State.eng s = .busy snap ∧ s.kv = true ∧ s.kdir ≠ .encrypt) ∧
    (∀ k n, (k, n) ∈ [(KSize.aes128, 10), (.aes192, 12), (.aes256, 14)] →
      ∃ s snap, State.eng s = .busy snap ∧ s.kv = true ∧ s.kdir = .encrypt ∧ s.ksize = k) :=
  ⟨⟨flying 2 State.reset, _, rfl, rfl⟩, ⟨flying 2 (holding .decrypt), _, rfl, rfl, by decide⟩,
    fun k _ _ => ⟨flying 2 { holding .encrypt with ksize := k }, _, rfl, rfl, rfl, rfl⟩⟩

/-- The three cases of DECRYPT, and each size of schedule. -/
theorem witness_decryptCases :
    (∃ s snap, State.eng s = .busy snap ∧ s.kv = false) ∧
    (∃ s snap, State.eng s = .busy snap ∧ s.kv = true ∧ s.kdir ≠ .decrypt) ∧
    (∀ k n, (k, n) ∈ [(KSize.aes128, 10), (.aes192, 12), (.aes256, 14)] →
      ∃ s snap, State.eng s = .busy snap ∧ s.kv = true ∧ s.kdir = .decrypt ∧ s.ksize = k) :=
  ⟨⟨flying 3 State.reset, _, rfl, rfl⟩, ⟨flying 3 (holding .encrypt), _, rfl, rfl, by decide⟩,
    fun k _ _ => ⟨flying 3 { holding .decrypt with ksize := k }, _, rfl, rfl, rfl, rfl⟩⟩

theorem witness_blockResult :
    ∃ s s' t snap snap', State.eng s = .busy snap ∧ State.eng s' = .busy snap' ∧ snap.din = snap'.din ∧ s.rk = s'.rk ∧
      s.kv = s'.kv ∧ s.kdir = s'.kdir ∧ s.ksize = s'.ksize ∧ exec .encrypt s = .next t ∧ t.err = .none :=
  ⟨flying 2 (holding .encrypt), flying 2 { holding .encrypt with key := katKey, ovr := true }, _, _, _, rfl, rfl, rfl,
    rfl, rfl, rfl, rfl, rfl, rfl⟩

theorem witness_oneCode : ∃ s snap, State.Inv s ∧ s.EngineMoves ∧ s.eng = .busy snap :=
  ⟨flying 0 State.reset, _, flying_inv, flying_moves _ _, rfl⟩

theorem witness_failedCommand :
    ∃ s t snap, State.EngineMoves s ∧ s.eng = .busy snap ∧ step s = .next t ∧ t.err ≠ .none :=
  ⟨flying 2 State.reset, _, _, flying_moves _ _, rfl, rfl, by decide⟩

/-- A step of the engine and a step of the host: ScheduleImmutable, DoutWrittenByResultsOnly, SnapHeldUntilCompletion,
InvariantKept. -/
theorem witness_steps :
    (∃ s t, State.Inv s ∧ step s = .next t) ∧
    (∃ s t snap, State.eng s = .busy snap ∧ s.InputMoves ∧ step s = .next t) :=
  ⟨⟨flying 0 State.reset, _, flying_inv, rfl⟩,
    ⟨given (wr 0x10 1) (flying 2 State.reset), _, _, rfl, given_moves _ _, rfl⟩⟩

/-- A completion of each command: CompletionFrame and CompletionsKeepKeyAndDin. -/
theorem witness_completions (i : Instr) : ∃ s t, exec i s = .next t := by
  cases i with
  | nop => exact ⟨flying 0 State.reset, _, rfl⟩
  | expandEnc keylen =>
    refine ⟨flying 1 State.reset, ?_⟩
    simp only [exec, execExpandEnc, expandCommand, inFlight, flying, State.withFetchWord, State.inFlightWith, State.accept]
    split <;> exact ⟨_, rfl⟩
  | expandDec keylen =>
    refine ⟨flying 1 State.reset, ?_⟩
    simp only [exec, execExpandDec, expandCommand, inFlight, flying, State.withFetchWord, State.inFlightWith, State.accept]
    split <;> exact ⟨_, rfl⟩
  | encrypt => exact ⟨flying 2 State.reset, _, rfl⟩
  | decrypt => exact ⟨flying 3 State.reset, _, rfl⟩
  | clear => exact ⟨flying 4 State.reset, _, rfl⟩

theorem witness_stops :
    State.Inv (flying 0 State.reset) ∧
      step (given (.access (.write .b8 0x00 2)) State.reset) = .fault .busError := ⟨flying_inv, rfl⟩

theorem witness_sbox : (0x53 : Byte) ≠ 0 ∧ gmul 0x53 0xca = 0x01 := by decide

theorem witness_small : 1 ≤ 9 ∧ 9 < 10 ∧ 1 ≤ Variant.rounds .aes128 ∧ 3 < 4 := by decide

theorem witness_loadKey : State.reset.inReset = false := rfl

/-- Three turns of the host end WAITIDLE on an idle core. -/
theorem witness_waitIdle :
    ∃ t, HostRun.runTurns [.input, .input, .input]
        { program := waitIdleLines 9 1, line := 0, temps := [], core := State.reset } = .next t ∧
      t.line = (waitIdleLines 9 1).length := ⟨_, rfl, by decide⟩

theorem witness_runEnd :
    (HostRun.start [.label 1]).ended = true ∧ (HostRun.start [.label 1, .r 0x04 9]).issuedLastAccess = false := by decide

end Sys2Proof.Tests
end

section
/-! The obligations about the state (10_state.md), and the rules they rest on: STATUS bit by bit, what each slot of the
aperture reads and stores, which steps write the schedule, and the invariant of R31 as a fact about the schedule. -/

namespace Sys2Proof.Machine

variable {s t : State}

/-! ### STATUS (R17) -/

/-- STATUS bit by bit, from bit 0 up (R17). -/
theorem statusWord_getLsbD (s : State) (i : Nat) :
    s.statusWord.getLsbD i =
      if i = 0 then s.eng.isBusy
      else if i = 1 then s.kv
      else if i = 2 then s.kdir.code.getLsbD 0
      else if i < 5 then s.ksize.code.getLsbD (i - 3)
      else if i < 7 then false
      else if i = 7 then s.ovr
      else s.err.code.getLsbD (i - 8) := by
  show (0#20 ++ s.err.code ++ flagBit s.ovr ++ 0#2 ++ s.ksize.code ++ s.kdir.code ++ flagBit s.kv ++
    flagBit s.eng.isBusy).getLsbD i = _
  simp only [BitVec.getLsbD_append, flagBit, BitVec.getLsbD_ofBool, BitVec.getLsbD_zero]
  match i with
  | 0 | 1 | 2 | 3 | 4 | 5 | 6 | 7 => simp
  | n + 8 =>
    have hn : s.err.code.getLsbD n = true → n < 4 := BitVec.lt_of_getLsbD
    simpa [show ¬ n + 8 < 5 by omega, show ¬ n + 8 < 7 by omega] using hn

theorem statusWord_ksize (s : State) : s.statusWord.extractLsb' 3 2 = s.ksize.code := by
  ext j hj
  simp only [BitVec.getElem_extractLsb', statusWord_getLsbD]
  grind

theorem statusWord_err (s : State) : s.statusWord.extractLsb' 8 4 = s.err.code := by
  ext j hj
  simp only [BitVec.getElem_extractLsb', statusWord_getLsbD]
  grind

theorem statusWord_reserved_low (s : State) : s.statusWord.extractLsb' 5 2 = 0 := by
  ext j hj
  simp only [BitVec.getElem_extractLsb', statusWord_getLsbD]
  grind

theorem statusWord_reserved_high (s : State) : s.statusWord.extractLsb' 12 20 = 0 := by
  ext j hj
  have above_err : s.err.code.getLsbD (12 + j - 8) = false := BitVec.getLsbD_of_ge _ _ (by omega)
  simp only [BitVec.getElem_extractLsb', statusWord_getLsbD, above_err]
  grind

theorem statusWord_busy (s : State) : s.statusWord.getLsbD 0 = s.eng.isBusy := statusWord_getLsbD s 0

theorem statusWord_kv (s : State) : s.statusWord.getLsbD 1 = s.kv := statusWord_getLsbD s 1

theorem statusWord_kdir (s : State) : s.statusWord.getLsbD 2 = s.kdir.code.getLsbD 0 := statusWord_getLsbD s 2

theorem statusWord_ovr (s : State) : s.statusWord.getLsbD 7 = s.ovr := statusWord_getLsbD s 7

/-- R31's fourth invariant is a fact about STATUS in every state (R18). -/
theorem statusWord_busy_iff (s : State) : s.statusWord.getLsbD 0 = true ↔ s.eng ≠ .idle := by
  rw [statusWord_busy]
  cases s.eng <;> simp [Engine.isBusy]

/-- R31's fifth invariant is a fact about STATUS in every state (R23, R95). -/
theorem statusWord_err_le (s : State) : (s.statusWord.extractLsb' 8 4).toNat ≤ 4 := by
  rw [statusWord_err]
  cases s.err <;> decide

/-- STATUS depends on the seven fields it shows, of ENG on BUSY alone. -/
theorem statusWord_congr (herr : s.err = t.err) (hovr : s.ovr = t.ovr) (hksize : s.ksize = t.ksize)
    (hkdir : s.kdir = t.kdir) (hkv : s.kv = t.kv) (hbusy : s.eng.isBusy = t.eng.isBusy) :
    s.statusWord = t.statusWord := by
  simp only [State.statusWord, herr, hovr, hksize, hkdir, hkv, hbusy]

/-! ### What each slot reads and stores (R35) -/

/-- The slots that read 0 (R16, R24, R36). -/
theorem busRead_hidden (s : State) {off : Offset}
    (h : off.val = 0x00 ∨ (0x08 ≤ off.val ∧ off.val < 0x30) ∨ 0x50 ≤ off.val) : s.busRead off = 0 := by
  have hall : ∀ off : Offset, off.val = 0x00 ∨ (0x08 ≤ off.val ∧ off.val < 0x30) ∨ 0x50 ≤ off.val →
      slotAt off = .ctrl ∨ slotAt off = .reserved ∨ ∃ j, slotAt off = .key j := by decide
  obtain h | h | ⟨j, h⟩ := hall off h <;> simp only [State.busRead, h]

theorem busRead_status (s : State) {off : Offset} (h : off.val = 0x04) : s.busRead off = s.statusWord := by
  obtain rfl : off = 0x04 := Fin.ext h
  rfl

theorem busRead_din (s : State) {off : Offset} (j : Fin 4) (h : off.val = 0x30 + 4 * j.val) :
    s.busRead off = s.din[j] := by
  simp only [State.busRead, slotAt_din off j h]

theorem busRead_dout (s : State) {off : Offset} (j : Fin 4) (h : off.val = 0x40 + 4 * j.val) :
    s.busRead off = s.dout[j] := by
  simp only [State.busRead, slotAt_dout off j h]

/-- A read depends on STATUS, DIN and DOUT alone. -/
theorem busRead_congr (hst : s.statusWord = t.statusWord) (hdin : s.din = t.din) (hdout : s.dout = t.dout)
    (off : Offset) : s.busRead off = t.busRead off := by
  simp only [State.busRead, hst, hdin, hdout]

/-- A write to CTRL while BUSY is dropped (R118). -/
theorem busWrite_ctrl_busy (v : Word) (h : s.eng ≠ .idle) : s.busWrite 0x00 v = s.drop := by
  show s.offer v = s.drop
  unfold State.offer
  split
  case h_1 hidle => exact absurd hidle h
  case h_2 => rfl

/-- A write to STATUS clears OVR where bit 7 is 1 (R22). -/
theorem busWrite_status (s : State) (v : Word) : s.busWrite 0x04 v = { s with ovr := s.ovr && !v.getLsbD 7 } := by
  show (if v.getLsbD 7 then { s with ovr := false } else s) = _
  cases v.getLsbD 7 <;> simp

theorem busWrite_key (s : State) {off : Offset} (v : Word) (j : Fin 8) (h : off.val = 0x10 + 4 * j.val) :
    s.busWrite off v = { s with key := s.key.set j v } := by
  simp only [State.busWrite, slotAt_key off j h]

theorem busWrite_din (s : State) {off : Offset} (v : Word) (j : Fin 4) (h : off.val = 0x30 + 4 * j.val) :
    s.busWrite off v = { s with din := s.din.set j v } := by
  simp only [State.busWrite, slotAt_din off j h]

/-- The slots that ignore a write (R26, R36). -/
theorem busWrite_ignored (s : State) {off : Offset} (v : Word)
    (h : off.val = 0x08 ∨ off.val = 0x0C ∨ 0x40 ≤ off.val) : s.busWrite off v = s := by
  have hall : ∀ off : Offset, off.val = 0x08 ∨ off.val = 0x0C ∨ 0x40 ≤ off.val →
      slotAt off = .reserved ∨ ∃ j, slotAt off = .dout j := by decide
  obtain h | ⟨j, h⟩ := hall off h <;> simp only [State.busWrite, h]

/-! ### One step of the host -/

/-- An admitted access out of reset is performed (R37). -/
theorem step_of_access {a : Access} {rest : List Input} (hm : s.InputMoves) (hi : s.inputs = .access a :: rest)
    (hr : s.inReset = false) (ha : a.admitted = true) : step s = .next (s.inputTaken.perform a) := by
  simp [step_of_input hm hi, State.input, ha, hr]

/-- An admitted read gives the host the slot's value and changes nothing else (R40). -/
theorem step_of_read {off : Offset} {rest : List Input} (hm : s.InputMoves)
    (hi : s.inputs = .access (.read .b32 off) :: rest) (hr : s.inReset = false) (ha : off.val % 4 = 0) :
    step s = .next { s.inputTaken with reads := s.busRead off :: s.reads } :=
  step_of_access hm hi hr (by simp [Access.admitted, Access.size, Access.off, ha])

/-- An admitted write is the slot's. -/
theorem step_of_write {off : Offset} {v : Word} {rest : List Input} (hm : s.InputMoves)
    (hi : s.inputs = .access (.write .b32 off v) :: rest) (hr : s.inReset = false) (ha : off.val % 4 = 0) :
    step s = .next (s.inputTaken.busWrite off v) :=
  step_of_access hm hi hr (by simp [Access.admitted, Access.size, Access.off, ha])

/-! ### Everything a step can do -/

/-- Everything the completion step of a word can do (R116), whatever the word: report a code or succeed with no other
effect, hold a schedule, write DOUT, or erase. -/
theorem complete_effect {cmd : Word} (h : complete cmd s = .next t) :
    (∃ e, t = s.finish e) ∨
      (∃ v d k keylen, variant keylen = some v ∧
        (decode cmd = .instr (.expandEnc keylen) ∨ decode cmd = .instr (.expandDec keylen)) ∧
        t = (s.holdSchedule v d k).finish .none) ∨
      (∃ w, (decode cmd = .instr .encrypt ∨ decode cmd = .instr .decrypt) ∧ s.kv = true ∧
        t = State.finish .none { s with dout := w }) ∨
      (decode cmd = .instr .clear ∧ t = s.erase.finish .none) := by
  obtain ⟨-, ht⟩ | ⟨i, hd, hx⟩ := complete_next h
  · exact .inl ⟨_, ht⟩
  · simpa only [hd, Decoded.instr.injEq] using (exec_next hx).2

/-- Everything a step can do: complete the command in flight, let an idle engine or an absent input pass, or meet an
input. -/
theorem step_effect (h : step s = .next t) :
    (s.EngineMoves ∧ ∃ snap, s.eng = .busy snap ∧ complete snap.cmd s.turnTaken = .next t) ∨
      t = s.turnTaken ∨
      (s.InputMoves ∧ ∃ i rest, s.inputs = i :: rest ∧ s.inputTaken.input i = .next t) := by
  obtain ⟨hm, he⟩ | ⟨hm, hi⟩ := step_next h
  · obtain ⟨-, ht⟩ | ⟨snap, hb, hc⟩ := engineTurn_next he
    · exact .inr (.inl ht)
    · exact .inl ⟨hm, snap, by simpa using hb, hc⟩
  · obtain ⟨-, ht⟩ | ⟨i, rest, hin, -⟩ := inputTurn_next hi
    · exact .inr (.inl ht)
    · have hin : s.inputs = i :: rest := by simpa using hin
      exact .inr (.inr ⟨hm, i, rest, hin, by rw [← step_of_input hm hin, h]⟩)

/-- Every completion leaves ENG idle and OVR, the reset level and the world outside as they were (R22, R116). -/
theorem exec_frame {i : Instr} (h : exec i s = .next t) :
    t.eng = .idle ∧ t.ovr = s.ovr ∧ t.inReset = s.inReset ∧ t.inputs = s.inputs ∧ t.turns = s.turns ∧
      t.reads = s.reads ∧ t.draws = s.draws := by
  obtain ⟨-, ⟨e, rfl⟩ | ⟨v, d, k, keylen, -, -, rfl⟩ | ⟨w, -, -, rfl⟩ | ⟨-, rfl⟩⟩ := exec_next h <;> simp

/-- The same for the completion step of any word, an illegal one too (R57). -/
theorem complete_frame {cmd : Word} (h : complete cmd s = .next t) :
    t.eng = .idle ∧ t.ovr = s.ovr ∧ t.inReset = s.inReset := by
  obtain ⟨e, rfl⟩ | ⟨v, d, k, keylen, -, -, rfl⟩ | ⟨w, -, -, rfl⟩ | ⟨-, rfl⟩ := complete_effect h <;> simp

/-- Everything an input can do to the schedule, DOUT and a command in flight: assert reset, or leave them alone. -/
theorem input_effect {i : Input} (h : s.input i = .next t) :
    (i = .assertReset ∧ t = s.assertReset) ∨
      (t.rk = s.rk ∧ t.kv = s.kv ∧ t.kdir = s.kdir ∧ t.ksize = s.ksize ∧ t.dout = s.dout ∧
        ∀ snap, s.eng = .busy snap → t.eng = .busy snap) := by
  obtain ⟨hi, ht⟩ | ⟨-, rfl⟩ | ⟨a, -, -, ⟨-, rfl⟩ | ⟨-, rfl⟩⟩ := input_next h
  · exact .inl ⟨hi, ht⟩
  · exact .inr ⟨rfl, rfl, rfl, rfl, rfl, fun _ hb => hb⟩
  · cases a <;> exact .inr ⟨rfl, rfl, rfl, rfl, rfl, fun _ hb => hb⟩
  · cases a with
    | read size off => exact .inr ⟨rfl, rfl, rfl, rfl, rfl, fun _ hb => hb⟩
    | write size off v =>
      obtain ⟨hdout, hrk, hkv, hkdir, hksize, -⟩ := busWrite_frame s off v
      exact .inr ⟨hrk, hkv, hkdir, hksize, hdout, fun _ hb => busWrite_busy hb⟩

/-! ### The invariant of R31, as a fact about the schedule -/

/-- The first three invariants of R31: those about RK, KV, KDIR and KSIZE. -/
structure State.ScheduleInv (s : State) : Prop where
  /-- KV = 1 if and only if KSIZE ≠ 0b00. -/
  kv_iff : s.kv = true ↔ s.ksize ≠ .none
  /-- KV = 0 implies KDIR = 0 and every RK entry is zero. -/
  no_schedule : s.kv = false → s.kdir = .encrypt ∧ ∀ r < 15, s.roundKey r = Block.zero
  /-- KV = 1 with KSIZE giving N rounds implies RK[N+1..14] are zero. -/
  unused_zero : s.kv = true → ∀ n, roundCount s.ksize = some n → ∀ r, n < r → r < 15 → s.roundKey r = Block.zero

/-- R31's invariants about STATUS hold in every state, so what is left is the schedule's and R112's. -/
theorem inv_iff (s : State) : s.Inv ↔ s.ScheduleInv ∧ (s.inReset = true → s.CoreIsReset) where
  mp h := ⟨⟨h.kv_iff, h.no_schedule, h.unused_zero⟩, h.reset_held⟩
  mpr := fun ⟨⟨hkv, hnone, hunused⟩, hreset⟩ =>
    ⟨hkv, hnone, hunused, statusWord_busy_iff s, statusWord_err_le s, hreset⟩

/-- The schedule's invariants depend on the schedule alone. -/
theorem State.ScheduleInv.congr (hs : s.ScheduleInv) (hrk : t.rk = s.rk) (hkv : t.kv = s.kv)
    (hkdir : t.kdir = s.kdir) (hksize : t.ksize = s.ksize) : t.ScheduleInv where
  kv_iff := by rw [hkv, hksize]; exact hs.kv_iff
  no_schedule := by
    simp only [hkv, hkdir, roundKey_congr hrk]
    exact hs.no_schedule
  unused_zero := by
    simp only [hkv, hksize, roundKey_congr hrk]
    exact hs.unused_zero

/-- They hold where no schedule is held (R31, R33, R93). -/
theorem State.ScheduleInv.of_erased (hrk : s.rk = Vector.replicate 15 Block.zero) (hkv : s.kv = false)
    (hkdir : s.kdir = .encrypt) (hksize : s.ksize = .none) : s.ScheduleInv where
  kv_iff := by simp [hkv, hksize]
  no_schedule _ := ⟨hkdir, fun r _ => roundKey_zero hrk r⟩
  unused_zero h := by simp [hkv] at h

theorem roundCount_ksize (v : Variant) : roundCount v.ksize = some v.rounds := by
  cases v <;> rfl

/-- They hold once an EXPAND has succeeded: N is the variant's and RK is zero above N (R84). -/
theorem State.ScheduleInv.holdSchedule (s : State) (v : Variant) (d : Direction) (k : Nat → Block) :
    (s.holdSchedule v d k).ScheduleInv where
  kv_iff := by cases v <;> simp [Variant.ksize]
  no_schedule h := by simp at h
  unused_zero _ n hn r hlt hr := by
    obtain rfl : v.rounds = n := by simpa [roundCount_ksize] using hn
    rw [roundKey_holdSchedule s v d k hr, if_neg (by omega)]

/-- Every completion keeps the schedule's invariants. -/
theorem complete_scheduleInv {cmd : Word} (hs : s.ScheduleInv) (h : complete cmd s = .next t) : t.ScheduleInv := by
  obtain ⟨e, rfl⟩ | ⟨v, d, k, keylen, -, -, rfl⟩ | ⟨w, -, -, rfl⟩ | ⟨-, rfl⟩ := complete_effect h
  · exact hs.congr rfl rfl rfl rfl
  · exact (State.ScheduleInv.holdSchedule s v d k).congr rfl rfl rfl rfl
  · exact hs.congr rfl rfl rfl rfl
  · exact .of_erased rfl rfl rfl rfl

/-- Every input keeps the schedule's invariants. -/
theorem input_scheduleInv {i : Input} (hs : s.ScheduleInv) (h : s.input i = .next t) : t.ScheduleInv := by
  obtain ⟨-, rfl⟩ | ⟨hrk, hkv, hkdir, hksize, -⟩ := input_effect h
  · exact .of_erased rfl rfl rfl rfl
  · exact hs.congr hrk hkv hkdir hksize

/-! ### Reset held (R112) -/

/-- Asserting reset gives the core its reset state. -/
theorem assertReset_coreIsReset (s : State) : s.assertReset.CoreIsReset :=
  ⟨rfl, rfl, rfl, rfl, rfl, rfl, rfl, rfl, rfl, rfl⟩

/-- An access made while reset is asserted changes nothing of the core. -/
theorem performInReset_coreIsReset (a : Access) (h : s.CoreIsReset) : (s.performInReset a).CoreIsReset := by
  cases a <;> exact h

theorem perform_inReset (s : State) (a : Access) : (s.perform a).inReset = s.inReset := by
  cases a with
  | read size off => rfl
  | write size off v =>
    obtain ⟨-, -, -, -, -, -, hr, -⟩ := busWrite_frame s off v
    exact hr

/-- After any input that leaves reset asserted, the core holds its reset state if it did before. -/
theorem input_reset_held {i : Input} (hs : s.inReset = true → s.CoreIsReset) (h : s.input i = .next t)
    (hr : t.inReset = true) : t.CoreIsReset := by
  obtain ⟨-, rfl⟩ | ⟨-, rfl⟩ | ⟨a, -, -, ⟨hin, rfl⟩ | ⟨hout, rfl⟩⟩ := input_next h
  · exact assertReset_coreIsReset s
  · simp at hr
  · exact performInReset_coreIsReset a (hs hin)
  · simp [perform_inReset, hout] at hr

/-- No command is in flight while reset is asserted. -/
theorem State.Inv.not_inReset_of_busy {snap : Snap} (hs : s.Inv) (hb : s.eng = .busy snap) : s.inReset ≠ true := by
  intro hr
  obtain ⟨-, -, -, -, -, -, -, -, -, hidle⟩ := hs.reset_held hr
  simp [hb] at hidle

/-! ### The obligations -/

/-- Settles O40: each of the three things a step can do keeps the schedule's invariants and R112's. -/
theorem invariantKept : Obligations.InvariantKept := by
  intro s t hs h
  obtain ⟨hsched, hreset⟩ := (inv_iff s).mp hs
  have hturn : s.turnTaken.ScheduleInv := hsched.congr rfl rfl rfl rfl
  have htaken : s.inputTaken.ScheduleInv := hsched.congr rfl rfl rfl rfl
  rw [inv_iff]
  obtain ⟨-, snap, hb, hc⟩ | rfl | ⟨-, i, rest, -, hi⟩ := step_effect h
  · obtain ⟨-, -, hr⟩ := complete_frame hc
    exact ⟨complete_scheduleInv hturn hc, fun ht => absurd (hr.symm.trans ht) (hs.not_inReset_of_busy hb)⟩
  · exact ⟨hturn, hreset⟩
  · exact ⟨input_scheduleInv htaken hi, input_reset_held (s := s.inputTaken) hreset hi⟩

/-- Settles O12: the fields are those of `statusWord_getLsbD`, and the accesses are the slot's at 0x04. -/
theorem statusWordLayout : Obligations.StatusWordLayout := by
  refine ⟨fun s => ⟨statusWord_busy_iff s, statusWord_kv s, ?kdir, ?ksize, statusWord_reserved_low s,
    statusWord_ovr s, ?err, statusWord_reserved_high s⟩, by decide, ?read, ?write⟩
  case kdir =>
    rw [statusWord_kdir]
    cases s.kdir <;> simp [Direction.code]
  case ksize =>
    rw [statusWord_ksize]
    cases s.ksize <;> rfl
  case err =>
    rw [statusWord_err]
    cases s.err <;> rfl
  case read =>
    intro s rest hm hi hr
    rw [step_of_read hm hi hr rfl, busRead_status s rfl]
  case write =>
    intro s v rest hm hi hr
    rw [step_of_write hm hi hr rfl, busWrite_status]
    rfl

/-- Settles O13: a dropped offer, the STATUS slot, reset, and the frame of every completion. -/
theorem overrunFlag : Obligations.OverrunFlag := by
  refine ⟨?dropped, ?written, ?reset, ?engine⟩
  case dropped =>
    intro s v rest hm hi hr hb
    refine ⟨_, step_of_write hm hi hr rfl, ?_⟩
    rw [busWrite_ctrl_busy (s := s.inputTaken) v hb, State.drop_ovr]
  case written =>
    intro s v rest hm hi hr
    refine ⟨_, step_of_write hm hi hr rfl, ?_⟩
    have hovr : (s.inputTaken.busWrite 0x04 v).ovr = (s.ovr && !v.getLsbD 7) := by rw [busWrite_status]; rfl
    exact ⟨fun hv => by rw [hovr, hv, Bool.not_true, Bool.and_false],
      fun hv => by rw [hovr, hv, Bool.not_false, Bool.and_true]⟩
  case reset =>
    intro s rest hm hi
    exact ⟨_, step_of_input hm hi, rfl⟩
  case engine =>
    intro s t hm h
    rw [step_engine hm] at h
    obtain ⟨-, rfl⟩ | ⟨snap, -, hc⟩ := engineTurn_next h
    · rfl
    · obtain ⟨-, hovr, -⟩ := complete_frame hc
      exact hovr

/-- Settles O14: the value is the slot's, whichever it is. -/
theorem apertureReads : Obligations.ApertureReads := fun s _off _rest hm hi hr ha =>
  ⟨_, step_of_read hm hi hr ha, busRead_status s, busRead_din s, busRead_dout s, busRead_hidden s⟩

/-- Settles O15: the state is the one the slot leaves, whichever it is. -/
theorem apertureWrites : Obligations.ApertureWrites := by
  intro s off v rest hm hi hr ha
  rw [step_of_write hm hi hr ha]
  refine ⟨fun j hj => ?_, fun j hj => ?_, fun hoff => ?_⟩
  · rw [busWrite_key _ v j hj]; rfl
  · rw [busWrite_din _ v j hj]; rfl
  · rw [busWrite_ignored _ v hoff]

/-- Settles O35: of what a completion can do, only holding a schedule and erasing write it, and of the inputs only the
assertion of reset. -/
theorem scheduleImmutable : Obligations.ScheduleImmutable := by
  intro s t h
  obtain ⟨hm, snap, hb, hc⟩ | rfl | ⟨hm, i, rest, hin, hi⟩ := step_effect h
  · obtain ⟨e, rfl⟩ | ⟨v, d, k, keylen, hv, hd, -⟩ | ⟨w, -, -, rfl⟩ | ⟨hd, -⟩ := complete_effect hc
    · exact .inl ⟨rfl, rfl, rfl, rfl⟩
    · exact .inr (.inl ⟨hm, snap, hb, .inr ⟨keylen, v, hv, hd⟩⟩)
    · exact .inl ⟨rfl, rfl, rfl, rfl⟩
    · exact .inr (.inl ⟨hm, snap, hb, .inl hd⟩)
  · exact .inl ⟨rfl, rfl, rfl, rfl⟩
  · obtain ⟨rfl, -⟩ | ⟨hrk, hkv, hkdir, hksize, -⟩ := input_effect hi
    · exact .inr (.inr ⟨hm, rest, hin⟩)
    · exact .inl ⟨hrk, hkv, hkdir, hksize⟩

/-- Settles O36: of what a completion can do, only a block command's result and erasing write DOUT, and of the inputs
only the assertion of reset. -/
theorem doutWrittenByResultsOnly : Obligations.DoutWrittenByResultsOnly := by
  intro s t h
  obtain ⟨hm, snap, hb, hc⟩ | rfl | ⟨hm, i, rest, hin, hi⟩ := step_effect h
  · obtain ⟨e, rfl⟩ | ⟨v, d, k, keylen, -, -, rfl⟩ | ⟨w, hd, hkv, rfl⟩ | ⟨hd, -⟩ := complete_effect hc
    · exact .inl rfl
    · exact .inl rfl
    · exact .inr (.inl ⟨hm, snap, hb, .inr ⟨hd, hkv, rfl⟩⟩)
    · exact .inr (.inl ⟨hm, snap, hb, .inl hd⟩)
  · exact .inl rfl
  · obtain ⟨rfl, -⟩ | ⟨-, -, -, -, hdout, -⟩ := input_effect hi
    · exact .inr (.inr ⟨hm, rest, hin⟩)
    · exact .inl hdout

/-- Settles O38: a completion ends in IDLE, and of the inputs only the assertion of reset touches ENG while BUSY. -/
theorem snapHeldUntilCompletion : Obligations.SnapHeldUntilCompletion := by
  intro s t snap hb h
  obtain ⟨hm, snap', hb', hc⟩ | rfl | ⟨hm, i, rest, hin, hi⟩ := step_effect h
  · obtain rfl : snap' = snap := by simpa [hb'] using hb
    obtain ⟨hidle, -⟩ := complete_frame hc
    exact .inr (.inl ⟨hm, hc, hidle⟩)
  · exact .inl hb
  · obtain ⟨rfl, rfl⟩ | ⟨-, -, -, -, -, hheld⟩ := input_effect hi
    · exact .inr (.inr ⟨hm, assertReset_coreIsReset _, rest, hin⟩)
    · exact .inl (hheld snap hb)

/-- Settles O39, by the frame of the four things a completion can do. -/
theorem completionFrame : Obligations.CompletionFrame := fun _i _s _t h => exec_frame h

/-- Settles O17: a read depends on STATUS, DIN and DOUT, and STATUS shows nothing of SNAP but that there is one. -/
theorem readsRevealNoKeyMaterial : Obligations.ReadsRevealNoKeyMaterial := by
  refine ⟨?keys, ?snap⟩
  case keys =>
    intro s key rk off
    exact busRead_congr (statusWord_congr rfl rfl rfl rfl rfl rfl) rfl rfl off
  case snap =>
    intro s key rk snap snap' off hb
    have hst : State.statusWord { s with key := key, rk := rk, eng := .busy snap' } = s.statusWord :=
      statusWord_congr rfl rfl rfl rfl rfl (by rw [hb]; rfl)
    exact busRead_congr hst rfl rfl off

/-- Settles O19. The values are the table's by computation; RK is zero entry by entry. -/
theorem resetValues : Obligations.ResetValues :=
  ⟨by decide, by decide, by decide, by decide, fun r _ => roundKey_zero rfl r, rfl, rfl, rfl, rfl, rfl, rfl,
    busRead_hidden _ (.inl rfl), (busRead_status _ rfl).trans (by decide)⟩

/-- Settles O41: no schedule is held after reset, and reset is released. -/
theorem invariantAtReset : Obligations.InvariantAtReset :=
  (inv_iff _).mpr ⟨.of_erased rfl rfl rfl rfl, fun h => absurd h (by decide)⟩

end Sys2Proof.Machine
end

section
/-! The obligations about the host's accesses (20_memory.md) and the host programs LOADKEY and WAITIDLE (30_encoding.md
R61), and the rules they rest on: which accesses are refused, that every command in flight completes, and what the
host's turn does at each line. -/

namespace Sys2Proof.Machine

variable {s : State}

/-! ### Admitted and refused accesses (R37, R38) -/

theorem admitted_iff (a : Access) : a.admitted = true ↔ a.size = .b32 ∧ a.off.val % 4 = 0 := by
  simp [Access.admitted]

theorem not_admitted_iff (a : Access) : ¬ a.admitted = true ↔ a.size ≠ .b32 ∨ a.off.val % 4 ≠ 0 := by
  rw [admitted_iff, not_and_or]

/-- An admitted access is answered, in reset or out of it. -/
theorem input_of_admitted (s : State) {a : Access} (ha : a.admitted = true) : ∃ t, s.input (.access a) = .next t := by
  cases hr : s.inReset with
  | true => exact ⟨s.performInReset a, by simp [State.input, ha, hr]⟩
  | false => exact ⟨s.perform a, by simp [State.input, ha, hr]⟩

/-- Any other access is refused (R38). -/
theorem input_of_not_admitted (s : State) {a : Access} (ha : ¬ a.admitted = true) :
    s.input (.access a) = .fault .busError := if_neg ha

/-! ### Every command in flight completes (R57, R116) -/

/-- Every key size but 0b00 has a round count (R21). -/
theorem roundCount_isSome {k : KSize} (h : k ≠ .none) : ∃ n, roundCount k = some n := by
  cases k with
  | none => exact absurd rfl h
  | aes128 | aes192 | aes256 => exact ⟨_, rfl⟩

theorem expandCommand_answers {snap : Snap} (hb : s.eng = .busy snap) (d : Direction)
    (f : Variant → List Byte → Nat → Block) (keylen : Nat) : ∃ t, expandCommand d f keylen s = .next t := by
  rw [expandCommand, inFlight_busy _ hb]
  cases variant keylen <;> exact ⟨_, rfl⟩

/-- A block command stops nowhere, since a held schedule has a round count (R31). -/
theorem blockCommand_answers {snap : Snap} (hs : s.ScheduleInv) (hb : s.eng = .busy snap) (d : Direction)
    (f : Block → (Nat → Block) → Nat → Block) : ∃ t, blockCommand d f s = .next t := by
  rw [blockCommand, inFlight_busy _ hb]
  cases hkv : s.kv with
  | false => exact ⟨_, if_pos rfl⟩
  | true =>
    obtain ⟨n, hn⟩ := roundCount_isSome (hs.kv_iff.mp hkv)
    by_cases hd : s.kdir = d
    · simp [hd, hn]
    · simp [hd]

theorem exec_answers {snap : Snap} (hs : s.ScheduleInv) (hb : s.eng = .busy snap) (i : Instr) :
    ∃ t, exec i s = .next t := by
  cases i with
  | nop => exact ⟨_, inFlight_busy _ hb⟩
  | expandEnc keylen => exact expandCommand_answers hb .encrypt encSchedule keylen
  | expandDec keylen => exact expandCommand_answers hb .decrypt decSchedule keylen
  | encrypt => exact blockCommand_answers hs hb .encrypt cipher
  | decrypt => exact blockCommand_answers hs hb .decrypt eqInvCipher
  | clear => exact ⟨_, inFlight_busy _ hb⟩

/-- The completion step of any word answers, an illegal one's too (R57). -/
theorem complete_answers {snap : Snap} (hs : s.ScheduleInv) (hb : s.eng = .busy snap) (cmd : Word) :
    ∃ t, complete cmd s = .next t := by
  rw [complete]
  cases decode cmd with
  | illegal why => exact ⟨_, inFlight_busy _ hb⟩
  | instr i => exact exec_answers hs hb i

theorem engineTurn_answers (hs : s.ScheduleInv) : ∃ t, engineTurn s = .next t := by
  cases hb : s.eng with
  | idle => exact ⟨s, by rw [engineTurn, hb]⟩
  | busy snap =>
    rw [engineTurn_busy hb]
    exact complete_answers hs hb snap.cmd

/-! ### The turns of a host run (R60) -/

/-- What every answered turn keeps, an answered run keeps. -/
theorem HostRun.runTurns_keeps {P : HostRun → Prop}
    (hstep : ∀ (h h' : HostRun) (turn : Turn), P h → h.step turn = .next h' → P h') (ts : List Turn) {h t : HostRun}
    (hP : P h) (hrun : HostRun.runTurns ts h = .next t) : P t := by
  induction ts generalizing h with
  | nil =>
    obtain rfl : h = t := by simpa [HostRun.runTurns] using hrun
    exact hP
  | cons turn ts ih =>
    cases e : h.step turn with
    | next h' => exact ih (hstep h h' turn hP e) (by simpa [HostRun.runTurns, e] using hrun)
    | fault f => simp [HostRun.runTurns, e] at hrun
    | refused f => simp [HostRun.runTurns, e] at hrun

/-- A run goes on from an answered turn. -/
theorem HostRun.runTurns_cons {h h' : HostRun} {turn : Turn} (ts : List Turn) (e : h.step turn = .next h') :
    HostRun.runTurns (turn :: ts) h = HostRun.runTurns ts h' := by
  rw [HostRun.runTurns, e]

/-- The core with no input and no turn left for it, as every access of the host leaves it. -/
def State.drained (s : State) : State := { s with inputs := [], turns := [] }

/-- The host once its `W` line has stored `v` at `off`. -/
def HostRun.wrote (h : HostRun) (off : Offset) (v : Word) : HostRun :=
  { h with core := h.core.drained.busWrite off v, line := h.line + 1 }

/-- The host once its `R` line has put the slot's value into `x`. -/
def HostRun.readInto (h : HostRun) (off : Offset) (x : Nat) : HostRun :=
  { h with
    core := { h.core.drained with reads := h.core.busRead off :: h.core.reads }, line := h.line + 1,
    temps := (x, h.core.busRead off) :: h.temps }

theorem HostRun.step_input_write {h : HostRun} {off : Offset} {v : Word} (hl : h.program[h.line]? = some (.w off v))
    (hr : h.core.inReset = false) (ha : off.val % 4 = 0) : h.step .input = .next (h.wrote off v) := by
  have hissue : h.issue (.write .b32 off v) = .next (h.core.drained.busWrite off v) :=
    step_of_write (.inl rfl) rfl hr ha
  simp only [HostRun.step, hl, HostRun.runLine, hissue, HostRun.after, HostRun.wrote]

theorem HostRun.step_input_read {h : HostRun} {off : Offset} {x : Nat} (hl : h.program[h.line]? = some (.r off x))
    (hr : h.core.inReset = false) (ha : off.val % 4 = 0) : h.step .input = .next (h.readInto off x) := by
  have hissue : h.issue (.read .b32 off) =
      .next { h.core.drained with reads := h.core.busRead off :: h.core.reads } :=
    step_of_read (.inl rfl) rfl hr ha
  simp only [HostRun.step, hl, HostRun.runLine, hissue, HostRun.after, HostRun.readInto, List.headD_cons]

/-- The temporary just read into holds the value read. -/
theorem HostRun.temp_readInto (h : HostRun) (off : Offset) (x : Nat) :
    (h.readInto off x).temp x = h.core.busRead off := by
  simp [HostRun.temp, HostRun.readInto]

/-- The engine's turn in a host run is the core's, and the host stands where it stood: either nothing was in flight and
only the core's turns are used up, or the command in flight completed. -/
theorem HostRun.step_engine_next {h h' : HostRun} (e : h.step .engine = .next h') :
    ∃ c, h' = { h with core := c } ∧
      ((h.core.eng = .idle ∧ c = { h.core with turns := [] }) ∨
        ∃ snap, h.core.eng = .busy snap ∧ complete snap.cmd { h.core with turns := [] } = .next c) := by
  rw [HostRun.step, step_engine (s := { h.core with turns := [.engine] }) (.inl rfl)] at e
  cases ht : engineTurn (State.turnTaken { h.core with turns := [.engine] }) with
  | fault f => simp [ht, HostRun.after] at e
  | refused f => simp [ht, HostRun.after] at e
  | next c => exact ⟨c, by simpa [ht, HostRun.after] using e.symm, engineTurn_next ht⟩

/-! ### LOADKEY (R42, R61) -/

theorem keyOffset_val {j : Nat} (hj : j < 8) : (keyOffset j).val = 0x10 + 4 * j :=
  Nat.mod_eq_of_lt (show 0x10 + 4 * j < 128 by omega)

theorem HostRun.wrote_keyOffset_core (h : HostRun) {l : Nat} (hl : l < 8) (v : Word) :
    (h.wrote (keyOffset l) v).core = { h.core.drained with key := h.core.key.set l v } :=
  busWrite_key h.core.drained v ⟨l, hl⟩ (keyOffset_val hl)

theorem HostRun.wrote_keyOffset_key (h : HostRun) {l : Nat} (hl : l < 8) (v : Word) (j : Fin 8) :
    (h.wrote (keyOffset l) v).core.key[j] = if j.val = l then v else h.core.key[j] := by
  simp only [h.wrote_keyOffset_core hl, Fin.getElem_fin, Vector.getElem_set, eq_comm]

/-- One line of LOADKEY stores one word of the key. -/
theorem step_loadKeyLines {h : HostRun} {key : List Byte} (hp : h.program = loadKeyLines key)
    (hlen : h.line < key.length / 4) (hj : h.line < 8) (hr : h.core.inReset = false) :
    h.step .input = .next (h.wrote (keyOffset h.line) (word key h.line)) := by
  have hoff := keyOffset_val hj
  refine HostRun.step_input_write ?_ hr (by omega)
  simp [hp, loadKeyLines, List.getElem?_range hlen]

/-- `n + 1` lines of LOADKEY, from any line on, store as many words of the key and change nothing else of the core. -/
theorem runTurns_loadKeyLines {key : List Byte} (n : Nat) {h : HostRun} (hp : h.program = loadKeyLines key)
    (hlen : h.line + n < key.length / 4) (hj : h.line + n < 8) (hr : h.core.inReset = false) :
    ∃ t, HostRun.runTurns (List.replicate (n + 1) .input) h = .next t ∧
      (∀ j : Fin 8, t.core.key[j] =
        if h.line ≤ j.val ∧ j.val ≤ h.line + n then word key j.val else h.core.key[j]) ∧
      t.core = { h.core.drained with key := t.core.key } := by
  induction n generalizing h with
  | zero =>
    have hj0 : h.line < 8 := hj
    refine ⟨_, HostRun.runTurns_cons [] (step_loadKeyLines hp hlen hj0 hr), fun j => ?_, ?_⟩
    · rw [h.wrote_keyOffset_key hj0]
      by_cases hjl : j.val = h.line
      · simp [hjl]
      · rw [if_neg hjl, if_neg (by omega)]
    · rw [h.wrote_keyOffset_core hj0]
  | succ n ih =>
    have hj0 : h.line < 8 := by omega
    have hcore0 := h.wrote_keyOffset_core hj0 (word key h.line)
    have hline : (h.wrote (keyOffset h.line) (word key h.line)).line = h.line + 1 := rfl
    obtain ⟨t, hrun, hkey, hcore⟩ := ih (h := h.wrote (keyOffset h.line) (word key h.line)) hp (by omega) (by omega)
      (by rw [hcore0]; exact hr)
    refine ⟨t, (HostRun.runTurns_cons _ (step_loadKeyLines hp (by omega) hj0 hr)).trans hrun, fun j => ?_, ?_⟩
    · rw [hkey, h.wrote_keyOffset_key hj0, hline]
      by_cases hjl : j.val = h.line
      · simp [hjl]
      · rw [if_neg hjl]
        exact if_congr (by omega) rfl rfl
    · rw [hcore, hcore0]
      rfl

/-! ### WAITIDLE (R47, R61) -/

/-- What every turn of a WAITIDLE run keeps: an idle engine does nothing, so a reading of STATUS with BUSY 0 stays true up
to the end. -/
structure HostRun.Polling (x fresh : Nat) (h : HostRun) : Prop where
  program : h.program = waitIdleLines x fresh
  released : h.core.inReset = false
  /-- Between the read and the end, a STATUS read with BUSY 0 is still the core's. -/
  read_idle : 2 ≤ h.line → (h.temp x).getLsbD 0 = false → h.core.eng = .idle ∧ h.temp x = h.core.statusWord
  /-- The branch lets the host past only with BUSY read as 0. -/
  end_idle : 3 ≤ h.line → (h.temp x).getLsbD 0 = false

/-- The mask 0x1 of WAITIDLE's `BNZ` tests BUSY. -/
theorem and_one_ne_zero_iff (w : Word) : w &&& 0x1 ≠ 0 ↔ w.getLsbD 0 = true := by
  show w &&& BitVec.twoPow 32 0 ≠ 0 ↔ _
  rw [BitVec.and_twoPow]
  cases w.getLsbD 0 <;> decide

/-- The host's way through WAITIDLE: to the read, and from the branch back to the label while BUSY read as 1. -/
theorem lineAfter_waitIdleLines {x fresh : Nat} {h : HostRun} (hp : h.program = waitIdleLines x fresh) :
    h.lineAfter 0 = 1 ∧ h.lineAfter 2 = if (h.temp x).getLsbD 0 = true then 0 else 3 := by
  refine ⟨by rw [HostRun.lineAfter, hp]; rfl, ?_⟩
  have htarget : h.target fresh = 0 := by simp [HostRun.target, hp, waitIdleLines, List.findIdx_cons]
  have hnext : h.lineAfter 2 = if h.temp x &&& 0x1 ≠ 0 then h.target fresh else 3 := by
    rw [HostRun.lineAfter, hp]
    rfl
  rw [hnext, htarget]
  exact if_congr (and_one_ne_zero_iff _) rfl rfl

/-- An engine's turn keeps it: with BUSY read as 0 nothing is in flight. -/
theorem HostRun.Polling.step_engine {x fresh : Nat} {h h' : HostRun} (hP : h.Polling x fresh)
    (e : h.step .engine = .next h') : h'.Polling x fresh := by
  obtain ⟨c, rfl, ⟨-, rfl⟩ | ⟨snap, hb, hc⟩⟩ := HostRun.step_engine_next e
  · exact ⟨hP.program, hP.released, hP.read_idle, hP.end_idle⟩
  · obtain ⟨-, -, hr⟩ := complete_frame hc
    refine ⟨hP.program, hr.trans hP.released, fun hl hbusy => ?_, hP.end_idle⟩
    obtain ⟨hidle, -⟩ := hP.read_idle hl hbusy
    simp [hb] at hidle

/-- A turn of the host keeps it, at each of the three lines and past the end. -/
theorem HostRun.Polling.step_input {x fresh : Nat} {h h' : HostRun} (hP : h.Polling x fresh)
    (e : h.step .input = .next h') : h'.Polling x fresh := by
  obtain ⟨hp, hr, hread, hend⟩ := hP
  obtain ⟨hlabel, hbranch⟩ := lineAfter_waitIdleLines hp
  have hline : h.line = 0 ∨ h.line = 1 ∨ h.line = 2 ∨ h.program.length ≤ h.line := by
    rw [hp]
    show _ ∨ _ ∨ _ ∨ 3 ≤ h.line
    omega
  obtain hl | hl | hl | hl := hline
  · rw [h.step_input_of_no_access (by rw [HostRun.accessAt, hl, hp]; rfl), hl, hlabel] at e
    obtain rfl : { h with line := 1 } = h' := by simpa using e
    exact ⟨hp, hr, fun h2 => absurd (show 2 ≤ 1 from h2) (by decide),
      fun h3 => absurd (show 3 ≤ 1 from h3) (by decide)⟩
  · rw [HostRun.step_input_read (off := 0x04) (x := x) (by rw [hl, hp]; rfl) hr rfl] at e
    obtain rfl : h.readInto 0x04 x = h' := by simpa using e
    have htemp : (h.readInto 0x04 x).temp x = h.core.statusWord := h.temp_readInto 0x04 x
    have h2 : (h.readInto 0x04 x).line = 2 := congrArg (· + 1) hl
    refine ⟨hp, hr, fun _ hbusy => ⟨?_, htemp⟩, fun h3 => by omega⟩
    rw [htemp] at hbusy
    by_contra hne
    exact Bool.false_ne_true (hbusy.symm.trans ((statusWord_busy_iff h.core).mpr hne))
  · rw [h.step_input_of_no_access (by rw [HostRun.accessAt, hl, hp]; rfl), hl, hbranch] at e
    obtain rfl : { h with line := if (h.temp x).getLsbD 0 = true then 0 else 3 } = h' := by simpa using e
    refine ⟨hp, hr, fun _ => hread hl.ge, fun h3 => ?_⟩
    have h3 : 3 ≤ if (h.temp x).getLsbD 0 = true then 0 else 3 := h3
    split at h3
    · omega
    · exact Bool.eq_false_of_not_eq_true ‹_›
  · obtain ⟨hstay, hnone⟩ := h.past_end hl
    rw [h.step_input_of_no_access hnone, hstay] at e
    obtain rfl : h = h' := by simpa using e
    exact ⟨hp, hr, hread, hend⟩

/-! ### The obligations -/

/-- Settles O16: the two conditions are `Access.admitted`, and an admitted access is answered in reset too. -/
theorem otherAccessesAreBusErrors : Obligations.OtherAccessesAreBusErrors := by
  intro s a rest hm hi
  rw [step_of_input hm hi]
  exact ⟨fun h => input_of_not_admitted _ ((not_admitted_iff a).mpr h),
    fun hsize hoff => input_of_admitted _ ((admitted_iff a).mpr ⟨hsize, hoff⟩)⟩

/-- Settles O42: the engine's turn always answers under the invariants, and of the inputs only an access that is not
admitted is refused. -/
theorem stopsOnBusErrorOnly : Obligations.StopsOnBusErrorOnly := by
  intro s hs
  obtain ⟨hsched, -⟩ := (inv_iff s).mp hs
  obtain hm | hm := engineMoves_or_inputMoves s
  · rw [step_engine hm]
    exact .inl (engineTurn_answers (hsched.congr rfl rfl rfl rfl))
  · cases hi : s.inputs with
    | nil => exact .inl ⟨s.turnTaken, by simp [step_input hm, inputTurn, hi]⟩
    | cons i rest =>
      rw [step_of_input hm hi]
      cases i with
      | assertReset => exact .inl ⟨_, rfl⟩
      | releaseReset => exact .inl ⟨_, rfl⟩
      | access a =>
        by_cases ha : a.admitted = true
        · exact .inl (input_of_admitted _ ha)
        · exact .inr ⟨input_of_not_admitted _ ha, hm, a, rest, rfl, (not_admitted_iff a).mp ha⟩

/-- Settles O53: LOADKEY's Nk lines, run from line 0, store words 0 to Nk - 1. -/
theorem loadKeyFillsKey : Obligations.LoadKeyFillsKey := by
  intro c v key hr hlen
  have hnk : v.nk - 1 + 1 = v.nk ∧ v.nk ≤ 8 := by cases v <;> decide
  obtain ⟨t, hrun, hkey, hcore⟩ := runTurns_loadKeyLines (v.nk - 1)
    (h := { program := loadKeyLines key, line := 0, temps := [], core := c }) rfl
    (by dsimp only; omega) (by dsimp only; omega) hr
  rw [hnk.1] at hrun
  refine ⟨t, hrun, fun j => ?_, hcore⟩
  rw [hkey]
  exact if_congr (by dsimp only; omega) rfl rfl

/-- Settles O54: a WAITIDLE run keeps `HostRun.Polling`, which at the end says what was read. -/
theorem waitIdleEndsIdle : Obligations.WaitIdleEndsIdle := by
  intro c x fresh ts t hr hrun hend
  have hstart : HostRun.Polling x fresh { program := waitIdleLines x fresh, line := 0, temps := [], core := c } :=
    ⟨rfl, hr, fun hl => by simp at hl, fun hl => by simp at hl⟩
  have hP : t.Polling x fresh := HostRun.runTurns_keeps
    (fun h h' turn hP e => match turn with
      | .input => hP.step_input e
      | .engine => hP.step_engine e) ts hstart hrun
  have hl : t.line = 3 := hend
  have hbusy := hP.end_idle hl.ge
  obtain ⟨hidle, htemp⟩ := hP.read_idle (by omega) hbusy
  exact ⟨hidle, htemp, hbusy, by rw [htemp, statusWord_err]⟩

/-- Settles O18: BASE is a multiple of 0x80 by definition, and an address has an offset exactly inside the aperture. -/
theorem apertureAtBase : Obligations.ApertureAtBase := by
  refine ⟨Nat.mul_mod_right 0x80 _, fun off => ?_, fun addr h => dif_neg (by omega)⟩
  have hin : base ≤ base + off.val ∧ base + off.val < base + 0x80 := by omega
  simp only [offsetOf, hin, and_self, dif_pos, Nat.add_sub_cancel_left]

end Sys2Proof.Machine
end

section
/-! The obligations about the encoding (30_encoding.md), and the rules they rest on: a word is its fields (R51), which
fields decode to which command (R55) and which to none (R57), that a row of the opcode map selects the same words (R56),
and that a command's one word meets its row (R59). -/

namespace Sys2Proof

open Sys2Proof.Laws

variable {v w : Word}

/-! ### A word is its fields (R51) -/

theorem word_eq_append_aboveOp (v : Word) : v = fieldAboveOp v ++ fieldOp v := by
  simp only [fieldAboveOp, fieldOp, BitVec.extractLsb'_append_extractLsb'_eq_extractLsb', BitVec.extractLsb'_eq_self]

theorem word_eq_append_fields (v : Word) :
    v = fieldRsvb v ++ fieldKeylen v ++ fieldRsva v ++ fieldDir v ++ fieldOp v := by
  simp only [fieldRsvb, fieldKeylen, fieldRsva, fieldDir, fieldOp,
    BitVec.extractLsb'_append_extractLsb'_eq_extractLsb', BitVec.extractLsb'_eq_self]

theorem word_eq_iff_aboveOp : v = w ↔ fieldOp v = fieldOp w ∧ fieldAboveOp v = fieldAboveOp w where
  mp h := h ▸ ⟨rfl, rfl⟩
  mpr := fun ⟨hop, habove⟩ => by rw [word_eq_append_aboveOp v, hop, habove, ← word_eq_append_aboveOp w]

theorem word_eq_iff_fields :
    v = w ↔ fieldOp v = fieldOp w ∧ fieldDir v = fieldDir w ∧ fieldRsva v = fieldRsva w ∧
      fieldRsvb v = fieldRsvb w ∧ fieldKeylen v = fieldKeylen w where
  mp h := h ▸ ⟨rfl, rfl, rfl, rfl, rfl⟩
  mpr := fun ⟨hop, hdir, hrsva, hrsvb, hkeylen⟩ => by
    rw [word_eq_append_fields v, hop, hdir, hrsva, hrsvb, hkeylen, ← word_eq_append_fields w]

/-! ### Masks and the length byte (R54, R56) -/

theorem and_fullMask (v : Word) : v &&& 0xFFFFFFFF#32 = v := BitVec.and_allOnes

theorem fieldKeylen_and_expandMask (v : Word) : fieldKeylen (v &&& 0xFFFF00FF#32) = 0 :=
  BitVec.extractLsb'_and.trans BitVec.and_zero

/-- EXPAND's mask keeps every field but the length byte, which it clears. -/
theorem and_expandMask_eq_iff (hw : fieldKeylen w = 0) :
    v &&& 0xFFFF00FF#32 = w ↔
      fieldOp v = fieldOp w ∧ fieldDir v = fieldDir w ∧ fieldRsva v = fieldRsva w ∧ fieldRsvb v = fieldRsvb w := by
  have kept {start len : Nat} (h : (0xFFFF00FF#32).extractLsb' start len = BitVec.allOnes len) :
      (v &&& 0xFFFF00FF#32).extractLsb' start len = v.extractLsb' start len := by
    rw [BitVec.extractLsb'_and, h, BitVec.and_allOnes]
  have hop : fieldOp (v &&& 0xFFFF00FF#32) = fieldOp v := kept rfl
  have hdir : fieldDir (v &&& 0xFFFF00FF#32) = fieldDir v := kept rfl
  have hrsva : fieldRsva (v &&& 0xFFFF00FF#32) = fieldRsva v := kept rfl
  have hrsvb : fieldRsvb (v &&& 0xFFFF00FF#32) = fieldRsvb v := kept rfl
  rw [word_eq_iff_fields, hop, hdir, hrsva, hrsvb, fieldKeylen_and_expandMask, hw, eq_self, and_true]

/-- A word is what EXPAND's mask keeps of it and its length byte. -/
theorem word_eq_of_expandMask_keylen (hmask : v &&& 0xFFFF00FF#32 = w &&& 0xFFFF00FF#32)
    (hkeylen : fieldKeylen v = fieldKeylen w) : v = w := by
  obtain ⟨hop, hdir, hrsva, hrsvb⟩ := (and_expandMask_eq_iff (fieldKeylen_and_expandMask w)).mp hmask
  obtain ⟨hop', hdir', hrsva', hrsvb'⟩ := (and_expandMask_eq_iff (fieldKeylen_and_expandMask w)).mp rfl
  exact word_eq_iff_fields.mpr
    ⟨hop.trans hop'.symm, hdir.trans hdir'.symm, hrsva.trans hrsva'.symm, hrsvb.trans hrsvb'.symm, hkeylen⟩

/-- The length byte sits in bits 15:8 (R51, R59). -/
theorem fieldKeylen_encodeKeylen (n : Nat) : fieldKeylen (encodeKeylen n) = BitVec.ofNat 8 n := by
  ext j hj
  have hword : 8 + j < 32 := by omega
  simp [fieldKeylen, encodeKeylen, hword, BitVec.getLsbD_eq_getElem hj]

/-- The operand of an assembled EXPAND reads back (R59). -/
theorem toNat_fieldKeylen_or_encodeKeylen (hw : fieldKeylen w = 0) {n : Nat} (hn : n ≤ 255) :
    (fieldKeylen (w ||| encodeKeylen n)).toNat = n := by
  have hor : fieldKeylen (w ||| encodeKeylen n) = fieldKeylen w ||| fieldKeylen (encodeKeylen n) :=
    BitVec.extractLsb'_or
  have hread : fieldKeylen (w ||| encodeKeylen n) = BitVec.ofNat 8 n := by
    rw [hor, hw, fieldKeylen_encodeKeylen]
    exact BitVec.zero_or
  rw [hread, BitVec.toNat_ofNat, Nat.mod_eq_of_lt (by omega)]

/-! ### Which fields decode to which command (R55) -/

/-- The fields of the words that decode to a command. -/
def FieldsSelect (v : Word) : Instr → Prop
  | .nop => fieldOp v = 0x0#4 ∧ fieldAboveOp v = 0
  | .expandEnc keylen =>
    (fieldOp v = 0x1#4 ∧ fieldDir v = 0 ∧ fieldRsva v = 0 ∧ fieldRsvb v = 0) ∧ (fieldKeylen v).toNat = keylen
  | .expandDec keylen =>
    (fieldOp v = 0x1#4 ∧ fieldDir v = 1 ∧ fieldRsva v = 0 ∧ fieldRsvb v = 0) ∧ (fieldKeylen v).toNat = keylen
  | .encrypt => fieldOp v = 0x2#4 ∧ fieldAboveOp v = 0
  | .decrypt => fieldOp v = 0x3#4 ∧ fieldAboveOp v = 0
  | .clear => fieldOp v = 0x4#4 ∧ fieldAboveOp v = 0

theorem decode_eq_instr_iff_fields (v : Word) (i : Instr) : decode v = .instr i ↔ FieldsSelect v i where
  mp h := by
    unfold decode decodeOp at h
    split_ifs at h with hop hres hdir habove h0 h2 h3 h4
    all_goals cases h
    · exact ⟨⟨hop, hdir, by simpa using hres⟩, rfl⟩
    · exact ⟨⟨hop, (BitVec.eq_zero_or_eq_one _).resolve_left hdir, by simpa using hres⟩, rfl⟩
    · exact ⟨h0, by simpa using habove⟩
    · exact ⟨h2, by simpa using habove⟩
    · exact ⟨h3, by simpa using habove⟩
    · exact ⟨h4, by simpa using habove⟩
  mpr h := by
    cases i with
    | nop | encrypt | decrypt | clear =>
      obtain ⟨hop, habove⟩ := h
      simp [decode, decodeOp, hop, habove]
    | expandEnc keylen | expandDec keylen =>
      obtain ⟨⟨hop, hdir, hrsva, hrsvb⟩, rfl⟩ := h
      simp [decode, hop, hdir, hrsva, hrsvb]

/-! ### Which words decode to no command (R57) -/

theorem isIllegal_iff_no_instr (v : Word) : (∃ why, decode v = .illegal why) ↔ ∀ i, decode v ≠ .instr i := by
  cases decode v <;> simp

/-- An OP other than EXPAND's is reserved, or it is one of the four without an operand (R52). -/
theorem op_ne_expand_iff (op : BitVec 4) :
    op ≠ 0x1#4 ↔ 5 ≤ op.toNat ∨ op ∈ [0x0#4, 0x2#4, 0x3#4, 0x4#4] := by decide +revert

theorem decodeOp_eq_illegal_iff {op : BitVec 4} (h : op ≠ 0x1#4) (why : IllegalReason) :
    decodeOp op = .illegal why ↔ why = .reservedOp ∧ 5 ≤ op.toNat := by
  cases why <;> decide +revert

theorem isIllegal_iff_fields (v : Word) :
    (∃ why, decode v = .illegal why) ↔
      5 ≤ (fieldOp v).toNat ∨
      (fieldOp v = 0x1#4 ∧ (fieldRsva v ≠ 0 ∨ fieldRsvb v ≠ 0)) ∨
      (fieldOp v ∈ [0x0#4, 0x2#4, 0x3#4, 0x4#4] ∧ fieldAboveOp v ≠ 0) := by
  constructor
  · rintro ⟨why, h⟩
    unfold decode at h
    split_ifs at h with hop hres hdir habove
    · exact .inr (.inl ⟨hop, hres⟩)
    · exact ((op_ne_expand_iff _).mp hop).imp_right fun hmem => .inr ⟨hmem, habove⟩
    · exact .inl ((decodeOp_eq_illegal_iff hop why).mp h).2
  · rintro (hfive | ⟨hop, hres⟩ | ⟨hmem, habove⟩)
    · have hop := (op_ne_expand_iff _).mpr (.inl hfive)
      by_cases habove : fieldAboveOp v = 0
      · refine ⟨.reservedOp, ?_⟩
        rw [decode, if_neg hop, if_neg (not_not_intro habove)]
        exact (decodeOp_eq_illegal_iff hop _).mpr ⟨rfl, hfive⟩
      · exact ⟨.strayBits, by rw [decode, if_neg hop, if_pos habove]⟩
    · exact ⟨.expandReservedBits, by rw [decode, if_pos hop, if_pos hres]⟩
    · have hop := (op_ne_expand_iff _).mpr (.inr hmem)
      exact ⟨.strayBits, by rw [decode, if_neg hop, if_pos habove]⟩

/-! ### The opcode map and the command's word (R56, R59) -/

/-- The free field of the word holds the command's operand (R56). -/
def HoldsOperand (v : Word) : Instr → Prop
  | .expandEnc keylen | .expandDec keylen => (fieldKeylen v).toNat = keylen
  | .nop | .encrypt | .decrypt | .clear => True

/-- The map's masks and matches say the same as R55's tests of the fields. -/
theorem fieldsSelect_iff_row (v : Word) (i : Instr) :
    FieldsSelect v i ↔ v &&& rowMask i = rowMatch i ∧ HoldsOperand v i := by
  cases i with
  | nop | encrypt | decrypt | clear =>
    rw [rowMask, and_fullMask, word_eq_iff_aboveOp]
    exact (and_iff_left trivial).symm
  | expandEnc keylen => exact and_congr_left' (and_expandMask_eq_iff (v := v) (w := 0x00000001#32) rfl).symm
  | expandDec keylen => exact and_congr_left' (and_expandMask_eq_iff (v := v) (w := 0x00000011#32) rfl).symm

theorem decode_eq_instr_iff_row (v : Word) (i : Instr) :
    decode v = .instr i ↔ v &&& rowMask i = rowMatch i ∧ HoldsOperand v i :=
  (decode_eq_instr_iff_fields v i).trans (fieldsSelect_iff_row v i)

theorem encode_meets_row (i : Instr) : encode i &&& rowMask i = rowMatch i := by
  cases i with
  | nop => exact EncodeMatches.nop
  | expandEnc keylen => exact EncodeMatches.expandEnc keylen
  | expandDec keylen => exact EncodeMatches.expandDec keylen
  | encrypt => exact EncodeMatches.encrypt
  | decrypt => exact EncodeMatches.decrypt
  | clear => exact EncodeMatches.clear

theorem encode_holdsOperand {i : Instr} (h : i.wf = true) : HoldsOperand (encode i) i := by
  cases i with
  | nop | encrypt | decrypt | clear => trivial
  | expandEnc keylen | expandDec keylen => exact toNat_fieldKeylen_or_encodeKeylen rfl (of_decide_eq_true h)

theorem HoldsOperand.wf {i : Instr} (h : HoldsOperand v i) : i.wf = true := by
  cases i with
  | nop | encrypt | decrypt | clear => rfl
  | expandEnc keylen | expandDec keylen =>
    obtain rfl : (fieldKeylen v).toNat = keylen := h
    exact decide_eq_true (by omega)

/-- Only one word meets a command's row and holds its operand. -/
theorem word_eq_of_row {i : Instr} (hv : v &&& rowMask i = rowMatch i) (hw : w &&& rowMask i = rowMatch i)
    (hvop : HoldsOperand v i) (hwop : HoldsOperand w i) : v = w := by
  have hrow : v &&& rowMask i = w &&& rowMask i := hv.trans hw.symm
  cases i with
  | nop | encrypt | decrypt | clear => rwa [rowMask, and_fullMask, and_fullMask] at hrow
  | expandEnc keylen | expandDec keylen =>
    exact word_eq_of_expandMask_keylen hrow (BitVec.eq_of_toNat_eq (hvop.trans hwop.symm))

/-- The words that decode to a command: one where it is well formed, none otherwise. -/
theorem decode_eq_instr_iff_encode (v : Word) (i : Instr) : decode v = .instr i ↔ i.wf = true ∧ encode i = v := by
  rw [decode_eq_instr_iff_row]
  constructor
  · rintro ⟨hrow, hoperand⟩
    have hwf := hoperand.wf
    exact ⟨hwf, word_eq_of_row (encode_meets_row i) hrow (encode_holdsOperand hwf) hoperand⟩
  · rintro ⟨hwf, rfl⟩
    exact ⟨encode_meets_row i, encode_holdsOperand hwf⟩

end Sys2Proof

namespace Sys2Proof.Machine

variable {s : State}

/-! ### Acceptance and completion of a word (R57, R115, R116) -/

/-- A word offered while IDLE is accepted, whatever it decodes to (R115). -/
theorem busWrite_ctrl_idle (v : Word) (h : s.eng = .idle) : s.busWrite 0x00 v = s.accept v := by
  show s.offer v = s.accept v
  simp only [State.offer, h]

theorem complete_of_illegal {cmd : Word} {why : IllegalReason} {snap : Snap} (hd : decode cmd = .illegal why)
    (hb : s.eng = .busy snap) : complete cmd s = .next (s.raiseError .illegalCommand) := by
  simp only [complete, hd, completeIllegal, inFlight_busy _ hb]

end Sys2Proof.Machine

namespace Sys2Proof

open Sys2Proof.Laws Sys2Proof.Machine

/-! ### The obligations -/

/-- Settles O1: a well-formed command's word meets the command's row and holds its operand. -/
theorem decodeOfEncode : Obligations.DecodeOfEncode := fun i hwf =>
  (decode_eq_instr_iff_encode (encode i) i).mpr ⟨hwf, rfl⟩

/-- Settles O2: only one word meets a command's row and holds its operand. -/
theorem encodeOfDecode : Obligations.EncodeOfDecode := fun v i => (decode_eq_instr_iff_encode v i).mp

/-- Settles O3: R56's rows and R55's fields select the same words, and a word is illegal where no command has it. -/
theorem matchAndMaskSelectCommand : Obligations.MatchAndMaskSelectCommand := by
  intro v
  have row (i : Instr) (hoperand : HoldsOperand v i) : decode v = .instr i ↔ v &&& rowMask i = rowMatch i :=
    (decode_eq_instr_iff_row v i).trans (and_iff_left hoperand)
  refine ⟨row .nop trivial, row (.expandEnc _) rfl, row (.expandDec _) rfl, row .encrypt trivial,
    row .decrypt trivial, row .clear trivial, ?_⟩
  simp only [isIllegal_iff_no_instr, ne_eq, decode_eq_instr_iff_row]
  constructor
  · intro h
    exact ⟨fun hrow => h .nop ⟨hrow, trivial⟩, fun hrow => h (.expandEnc _) ⟨hrow, rfl⟩,
      fun hrow => h (.expandDec _) ⟨hrow, rfl⟩, fun hrow => h .encrypt ⟨hrow, trivial⟩,
      fun hrow => h .decrypt ⟨hrow, trivial⟩, fun hrow => h .clear ⟨hrow, trivial⟩⟩
  · rintro ⟨hnop, henc, hdec, hencrypt, hdecrypt, hclear⟩ i ⟨hrow, -⟩
    cases i with
    | nop => exact hnop hrow
    | expandEnc keylen => exact henc hrow
    | expandDec keylen => exact hdec hrow
    | encrypt => exact hencrypt hrow
    | decrypt => exact hdecrypt hrow
    | clear => exact hclear hrow

/-- Settles O4: acceptance does not decode the word, and an illegal word's completion only raises its error. -/
theorem illegalWordReportsCodeFour : Obligations.IllegalWordReportsCodeFour := by
  refine ⟨isIllegal_iff_fields, fun s v rest hm hi hr hidle => ?_, fun s snap why hm hb hd => ⟨?_, rfl⟩⟩
  · rw [step_of_write hm hi hr rfl, busWrite_ctrl_idle v (show s.inputTaken.eng = .idle from hidle)]
    rfl
  · rw [step_of_busy hm hb, complete_of_illegal hd (show s.turnTaken.eng = .busy snap from hb)]
    rfl

/-- Settles O5: the table's words are the encodings of its commands, but for two that no command has. -/
theorem sampleWordsDecode : Obligations.SampleWordsDecode :=
  ⟨decodeOfEncode .nop rfl, decodeOfEncode (.expandEnc 16) rfl, decodeOfEncode (.expandDec 24) rfl,
    decodeOfEncode (.expandDec 255) rfl, decodeOfEncode .encrypt rfl, decodeOfEncode .decrypt rfl,
    decodeOfEncode .clear rfl, by decide, by decide⟩

end Sys2Proof
end

section
/-! The obligations about the arithmetic, the tables and the transforms (40_primitives.md), and the rules they rest on:
gmul as a sum over the bits of its second factor (R64), the S-box as the affine map of the inverse (R65), the transforms
byte by byte (R68 to R73), and the column transforms as matrices over the field (R74, R75). -/

namespace Sys2Proof.Machine

/-! ### xtime is linear (R63) -/

@[simp] theorem xtime_zero : xtime 0#8 = 0#8 := rfl

/-- The two cases of R63 as one sum. -/
theorem xtime_eq_shift_xor (b : Byte) : xtime b = b <<< 1 ^^^ if b.getLsbD 7 then 0x1B#8 else 0#8 := by
  unfold xtime
  split_ifs <;> simp

theorem ite_bool_xor (p q : Bool) (x : Byte) :
    (if p ^^ q then x else 0#8) = (if p then x else 0#8) ^^^ (if q then x else 0#8) := by
  cases p <;> cases q <;> simp

@[simp] theorem xtime_xor (a b : Byte) : xtime (a ^^^ b) = xtime a ^^^ xtime b := by
  rw [xtime_eq_shift_xor, xtime_eq_shift_xor a, xtime_eq_shift_xor b, BitVec.shiftLeft_xor_distrib,
    BitVec.getLsbD_xor, ite_bool_xor]
  ac_rfl

/-- A byte is a polynomial in x (R62), so it is reached from 0 by Horner's steps. -/
theorem byte_induction {P : Byte → Prop} (zero : P 0#8) (mul_x : ∀ b, P b → P (xtime b))
    (add_one : ∀ b, P b → P (b ^^^ 1#8)) (b : Byte) : P b := by
  have horner : ∀ b : Byte, b ≠ 0#8 →
      (b >>> 1).toNat < b.toNat ∧ (b = xtime (b >>> 1) ∨ b = xtime (b >>> 1) ^^^ 1#8) := by decide
  induction hn : b.toNat using Nat.strong_induction_on generalizing b with
  | _ n ih =>
    by_cases hb : b = 0#8
    · exact hb ▸ zero
    · obtain ⟨hlt, h⟩ := horner b hb
      have hshift : P (xtime (b >>> 1)) := mul_x _ (ih _ (hn ▸ hlt) _ rfl)
      obtain h | h := h <;> rw [h]
      · exact hshift
      · exact add_one _ hshift

/-! ### The loop of gmul is a sum (R64) -/

/-- The sum of the multiples of `a` that the bits 0 .. n-1 of `b` select. -/
def gmulSum (a b : Byte) : Nat → Byte
  | 0 => 0#8
  | n + 1 => gmulSum a b n ^^^ if b.getLsbD n then xtime^[n] a else 0#8

theorem foldl_gmulStep (a b : Byte) (n : Nat) :
    (List.range n).foldl (gmulStep b) (0#8, a) = (gmulSum a b n, xtime^[n] a) := by
  induction n with
  | zero => rfl
  | succ n ih =>
    rw [List.range_succ, List.foldl_append, ih, Function.iterate_succ_apply']
    simp only [List.foldl_cons, List.foldl_nil, gmulStep, gmulSum]
    split_ifs <;> simp

theorem gmul_eq_sum (a b : Byte) : gmul a b = gmulSum a b 8 := by
  rw [gmul, foldl_gmulStep]

theorem gmulSum_xor (a b c : Byte) (n : Nat) : gmulSum a (b ^^^ c) n = gmulSum a b n ^^^ gmulSum a c n := by
  induction n with
  | zero => simp [gmulSum]
  | succ n ih =>
    rw [gmulSum, ih, BitVec.getLsbD_xor, ite_bool_xor, gmulSum, gmulSum]
    ac_rfl

/-- Shifting the second factor doubles every summand. -/
theorem gmulSum_shiftLeft (a b : Byte) {n : Nat} (hn : n < 8) :
    gmulSum a (b <<< 1) (n + 1) = xtime (gmulSum a b n) := by
  induction n with
  | zero => simp [gmulSum]
  | succ n ih =>
    have hbit : (b <<< 1).getLsbD (n + 1) = b.getLsbD n := by
      simp [BitVec.getLsbD_shiftLeft, hn, -BitVec.getLsbD_eq_getElem]
    rw [gmulSum, ih (by omega), hbit, gmulSum, xtime_xor, apply_ite xtime, xtime_zero, Function.iterate_succ_apply']

/-! ### gmul is a commutative, associative product (R64) -/

@[simp] theorem gmul_zero (a : Byte) : gmul a 0#8 = 0#8 := by simp [gmul_eq_sum, gmulSum]

@[simp] theorem gmul_one (a : Byte) : gmul a 1#8 = a := by simp [gmul_eq_sum, gmulSum]

@[simp] theorem gmul_xor (a b c : Byte) : gmul a (b ^^^ c) = gmul a b ^^^ gmul a c := by
  simp only [gmul_eq_sum, gmulSum_xor]

/-- `x^8 = x^4 + x^3 + x + 1`, the reduction by m(x) (R62). -/
theorem iterate_xtime_eight (a : Byte) : xtime^[8] a = gmul a 0x1B#8 := by decide +revert

/-- Doubling the second factor shifts it, and where bit 7 falls out the sum is reduced by m(x). -/
@[simp] theorem gmul_xtime (a b : Byte) : gmul a (xtime b) = xtime (gmul a b) := by
  have hshift : gmul a (b <<< 1) = xtime (gmulSum a b 7) := by
    rw [gmul_eq_sum, gmulSum_shiftLeft a b (by decide)]
  have htop : xtime (gmul a b) = xtime (gmulSum a b 7) ^^^ if b.getLsbD 7 then xtime (xtime^[7] a) else 0#8 := by
    rw [gmul_eq_sum, gmulSum, xtime_xor, apply_ite xtime, xtime_zero]
  rw [xtime_eq_shift_xor, gmul_xor, hshift, htop, apply_ite (gmul a), gmul_zero, ← iterate_xtime_eight,
    Function.iterate_succ_apply' xtime 7]

/-- Multiplication by `a` is the one map that keeps zero, commutes with xtime and adds `a` where its argument gains 1. -/
theorem gmul_eq_of_horner {a : Byte} {f : Byte → Byte} (zero : f 0#8 = 0#8) (mul_x : ∀ b, f (xtime b) = xtime (f b))
    (add_one : ∀ b, f (b ^^^ 1#8) = f b ^^^ a) (b : Byte) : gmul a b = f b := by
  induction b using byte_induction with
  | zero => rw [gmul_zero, zero]
  | mul_x b ih => rw [gmul_xtime, ih, mul_x]
  | add_one b ih => rw [gmul_xor, ih, gmul_one, add_one]

@[simp] theorem zero_gmul (b : Byte) : gmul 0#8 b = 0#8 :=
  gmul_eq_of_horner (f := fun _ => 0#8) rfl (fun _ => rfl) (fun _ => rfl) b

@[simp] theorem one_gmul (b : Byte) : gmul 1#8 b = b :=
  gmul_eq_of_horner (f := fun b => b) rfl (fun _ => rfl) (fun _ => rfl) b

@[simp] theorem xor_gmul (a b c : Byte) : gmul (a ^^^ b) c = gmul a c ^^^ gmul b c :=
  gmul_eq_of_horner (f := fun c => gmul a c ^^^ gmul b c) (by simp) (by simp)
    (fun c => by simp only [gmul_xor, gmul_one]; ac_rfl) c

@[simp] theorem xtime_gmul (a b : Byte) : gmul (xtime a) b = xtime (gmul a b) :=
  gmul_eq_of_horner (f := fun b => xtime (gmul a b)) (by simp) (by simp) (by simp) b

theorem gmul_comm (a b : Byte) : gmul a b = gmul b a :=
  gmul_eq_of_horner (f := fun b => gmul b a) (by simp) (by simp) (by simp) b

theorem gmul_assoc (a b c : Byte) : gmul (gmul a b) c = gmul a (gmul b c) :=
  gmul_eq_of_horner (f := fun c => gmul a (gmul b c)) (by simp) (by simp) (by simp) c

/-! ### SBOX and INV_SBOX (R65, R66) -/

/-- The inverse of the affine map of R65. -/
def unaffine (b : Byte) : Byte := b.rotateLeft 1 ^^^ b.rotateLeft 3 ^^^ b.rotateLeft 6 ^^^ 0x05#8

theorem affine_unaffine (b : Byte) : affine (unaffine b) = b := by decide +revert

/-- The affine map undone, the table's entry for `x` is the field inverse of `x`. -/
theorem gmul_unaffine_sbox {x : Byte} (hx : x ≠ 0#8) : gmul x (unaffine (sbox x)) = 1#8 := by decide +revert

theorem gmul_inverse_unique {x y z : Byte} (hy : gmul x y = 1#8) (hz : gmul x z = 1#8) : y = z := calc
  y = gmul y (gmul x z) := by rw [hz, gmul_one]
  _ = gmul (gmul x y) z := by rw [← gmul_assoc, gmul_comm y]
  _ = z := by rw [hy, one_gmul]

@[simp] theorem invSbox_sbox (x : Byte) : invSbox (sbox x) = x := by decide +revert

/-- There are as many entries as bytes, so the left inverse is a right inverse. -/
@[simp] theorem sbox_invSbox (x : Byte) : sbox (invSbox x) = x :=
  Function.LeftInverse.rightInverse_of_card_le invSbox_sbox le_rfl x

/-! ### The round constants (R67) -/

theorem bytes_rcon (j : Nat) : bytes (rcon j) = [rconBytes.getD (j - 1) 0, 0, 0, 0] := bytes_append _ _ _ _

theorem rconBytes_succ : ∀ j < 9, rconBytes.getD (j + 1) 0 = xtime (rconBytes.getD j 0) := by decide

/-! ### The transforms byte by byte (R68 to R73) -/

section

variable (s : Block) (r c : Fin 4)

@[simp] theorem byte_subBytes : (subBytes s).byte r c = sbox (s.byte r c) := by simp [subBytes]

@[simp] theorem byte_invSubBytes : (invSubBytes s).byte r c = invSbox (s.byte r c) := by simp [invSubBytes]

@[simp] theorem byte_shiftRows : (shiftRows s).byte r c = s.byte r (c + r) := by simp [shiftRows]

@[simp] theorem byte_invShiftRows : (invShiftRows s).byte r c = s.byte r (c - r) := by simp [invShiftRows]

theorem subBytes_shiftRows : subBytes (shiftRows s) = shiftRows (subBytes s) := Block.ext_byte fun r c => by simp

theorem invSubBytes_invShiftRows : invSubBytes (invShiftRows s) = invShiftRows (invSubBytes s) :=
  Block.ext_byte fun r c => by simp

@[simp] theorem invShiftRows_shiftRows : invShiftRows (shiftRows s) = s := Block.ext_byte fun r c => by simp

@[simp] theorem invSubBytes_subBytes : invSubBytes (subBytes s) = s := Block.ext_byte fun r c => by simp

/-- A block's bytes stand in column-major order (R68). -/
theorem getD_bytesOfBlock : (bytesOfBlock s).getD (r.val + 4 * c.val) 0 = s.byte r c := by
  match r, c with
  | 0, 0 | 1, 0 | 2, 0 | 3, 0 | 0, 1 | 1, 1 | 2, 1 | 3, 1 => rfl
  | 0, 2 | 1, 2 | 2, 2 | 3, 2 | 0, 3 | 1, 3 | 2, 3 | 3, 3 => rfl

theorem exists_row_col (i : Fin 16) : ∃ r c : Fin 4, i.val = r.val + 4 * c.val :=
  ⟨⟨i % 4, by omega⟩, ⟨i / 4, by omega⟩, (Nat.mod_add_div _ _).symm⟩

/-- The map P of R72 sends row r, column c to row r, column c + r. -/
theorem shiftRows_position :
    [0, 5, 10, 15, 4, 9, 14, 3, 8, 13, 2, 7, 12, 1, 6, 11].getD (r.val + 4 * c.val) 0 =
      r.val + 4 * (c + r).val := by decide +revert

/-- The map Q of R73 sends row r, column c to row r, column c - r. -/
theorem invShiftRows_position :
    [0, 13, 10, 7, 4, 1, 14, 11, 8, 5, 2, 15, 12, 9, 6, 3].getD (r.val + 4 * c.val) 0 =
      r.val + 4 * (c - r).val := by decide +revert

end

/-! ### MixColumns and InvMixColumns as matrices (R74, R75) -/

/-- The XOR of two columns, AddRoundKey on one column (R69). -/
def xorColumn (s t : Column) : Column := ⟨s.r0 ^^^ t.r0, s.r1 ^^^ t.r1, s.r2 ^^^ t.r2, s.r3 ^^^ t.r3⟩

/-- A column times the matrix whose rows are the first row `a b c d` turned right step by step: the shape of both
matrices. -/
def circulant (a b c d : Byte) (s : Column) : Column where
  r0 := gmul a s.r0 ^^^ gmul b s.r1 ^^^ gmul c s.r2 ^^^ gmul d s.r3
  r1 := gmul d s.r0 ^^^ gmul a s.r1 ^^^ gmul b s.r2 ^^^ gmul c s.r3
  r2 := gmul c s.r0 ^^^ gmul d s.r1 ^^^ gmul a s.r2 ^^^ gmul b s.r3
  r3 := gmul b s.r0 ^^^ gmul c s.r1 ^^^ gmul d s.r2 ^^^ gmul a s.r3

theorem mixColumn_eq_circulant (s : Column) : mixColumn s = circulant 0x02 0x03 0x01 0x01 s := by
  simp [mixColumn, circulant]

theorem invMixColumn_eq_circulant (s : Column) : invMixColumn s = circulant 0x0e 0x0b 0x0d 0x09 s := rfl

theorem circulant_identity (s : Column) : circulant 0x01 0 0 0 s = s := by simp [circulant]

/-- Two such matrices multiply to one, by the algebra of R64. -/
theorem circulant_circulant (a b c d a' b' c' d' : Byte) (s : Column) :
    circulant a b c d (circulant a' b' c' d' s) =
      circulant (gmul a a' ^^^ gmul b d' ^^^ gmul c c' ^^^ gmul d b')
        (gmul a b' ^^^ gmul b a' ^^^ gmul c d' ^^^ gmul d c')
        (gmul a c' ^^^ gmul b b' ^^^ gmul c a' ^^^ gmul d d')
        (gmul a d' ^^^ gmul b c' ^^^ gmul c b' ^^^ gmul d a') s := by
  simp only [circulant, gmul_xor, xor_gmul, gmul_assoc, Column.mk.injEq]
  refine ⟨?_, ?_, ?_, ?_⟩ <;> ac_rfl

theorem circulant_xor (a b c d : Byte) (s t : Column) :
    circulant a b c d (xorColumn s t) = xorColumn (circulant a b c d s) (circulant a b c d t) := by
  simp only [circulant, xorColumn, gmul_xor, Column.mk.injEq]
  refine ⟨?_, ?_, ?_, ?_⟩ <;> ac_rfl

/-- The product of the two matrices is the identity (R75). -/
theorem invMixColumn_mixColumn (s : Column) : invMixColumn (mixColumn s) = s := by
  rw [mixColumn_eq_circulant, invMixColumn_eq_circulant, circulant_circulant]
  exact circulant_identity s

theorem mixColumn_invMixColumn (s : Column) : mixColumn (invMixColumn s) = s := by
  rw [mixColumn_eq_circulant, invMixColumn_eq_circulant, circulant_circulant]
  exact circulant_identity s

@[simp] theorem invMixColumns_mixColumns (s : Block) : invMixColumns (mixColumns s) = s := by
  simp only [invMixColumns, mixColumns, Block.mapCols, invMixColumn_mixColumn]

@[simp] theorem mixColumns_invMixColumns (s : Block) : mixColumns (invMixColumns s) = s := by
  simp only [invMixColumns, mixColumns, Block.mapCols, mixColumn_invMixColumn]

theorem addRoundKey_eq_columns (s k : Block) :
    addRoundKey s k = ⟨xorColumn s.c0 k.c0, xorColumn s.c1 k.c1, xorColumn s.c2 k.c2, xorColumn s.c3 k.c3⟩ := rfl

theorem invMixColumns_addRoundKey (s k : Block) :
    invMixColumns (addRoundKey s k) = addRoundKey (invMixColumns s) (invMixColumns k) := by
  simp only [invMixColumns, addRoundKey_eq_columns, Block.mapCols, invMixColumn_eq_circulant, circulant_xor]

/-! ### SubWord and RotWord (R77, R78) -/

theorem subWord_append (a0 a1 a2 a3 : Byte) :
    subWord (a0 ++ a1 ++ a2 ++ a3) = sbox a0 ++ sbox a1 ++ sbox a2 ++ sbox a3 := by
  rw [subWord, bytes_append]
  rfl

theorem rotWord_append (a0 a1 a2 a3 : Byte) : rotWord (a0 ++ a1 ++ a2 ++ a3) = a1 ++ a2 ++ a3 ++ a0 := calc
  rotWord (a0 ++ a1 ++ a2 ++ a3) = (a0 ++ a1 ++ a2 ++ a3).rotateLeft 8 := rfl
  _ = a1 ++ a2 ++ a3 ++ a0 := by
    ext i hi
    rw [BitVec.getElem_rotateLeft]
    grind

/-! ### The obligations -/

/-- Settles O43: the loop is linear and commutes with xtime in its second factor, and `gmul_eq_of_horner` then says what
the other orders and bracketings are. -/
theorem fieldMultiplication : Obligations.FieldMultiplication :=
  ⟨gmul_comm, gmul_assoc, gmul_xor, gmul_one, gmul_zero⟩

/-- Settles O44: the affine map undone on the table's entry for `x` is an inverse of `x`, and `x` has no other. -/
theorem sboxIsAffineOfInverse : Obligations.SboxIsAffineOfInverse := by
  refine ⟨rfl, fun x hx => ⟨_, gmul_unaffine_sbox hx⟩, fun x y hxy => ?_⟩
  have hx : x ≠ 0#8 := by
    rintro rfl
    simp at hxy
  rw [gmul_inverse_unique hxy (gmul_unaffine_sbox hx), affine_unaffine]

/-- Settles O47: each position is a row and a column, where the transforms are known byte by byte. -/
theorem subBytesAndShiftRowsInvert : Obligations.SubBytesAndShiftRowsInvert := by
  refine ⟨fun s i => ?_, fun s => ⟨invShiftRows_shiftRows s, invSubBytes_subBytes s⟩⟩
  obtain ⟨r, c, hi⟩ := exists_row_col i
  simp only [hi, shiftRows_position, invShiftRows_position, getD_bytesOfBlock, byte_shiftRows, byte_invShiftRows,
    byte_subBytes, byte_invSubBytes, and_self]

/-- Settles O48: MixColumns and InvMixColumns are inverse matrices, and SubBytes works on each byte where it stands. -/
theorem inverseCipherFacts : Obligations.InverseCipherFacts :=
  ⟨fun s => ⟨invMixColumns_mixColumns s, mixColumns_invMixColumns s⟩, invMixColumns_addRoundKey,
    fun s => ⟨subBytes_shiftRows s, invSubBytes_invShiftRows s⟩⟩

/-- Settles O49, from the four bytes of a word. -/
theorem wordFunctions : Obligations.WordFunctions := fun a0 a1 a2 a3 =>
  ⟨subWord_append a0 a1 a2 a3, rotWord_append a0 a1 a2 a3⟩

/-- Settles O45, by the table's 256 entries. -/
theorem inverseSbox : Obligations.InverseSbox := fun x => ⟨invSbox_sbox x, sbox_invSbox x⟩

/-- Settles O46: the three low bytes of a round constant are zero, and the first bytes double along the table. -/
theorem roundConstants : Obligations.RoundConstants := by
  refine ⟨bytes_rcon 1, fun j hlo hhi => ?_⟩
  obtain ⟨i, rfl⟩ := Nat.exists_eq_add_of_le' hlo
  rw [bytes_rcon, bytes_rcon, List.getD_cons_zero]
  simp only [Nat.add_sub_cancel, rconBytes_succ i (by omega)]

end Sys2Proof.Machine
end

section
/-! The obligations about the key schedule (41_key_schedule.md) and the machine's round trip, and the rules they rest
on: the words of the expansion one after the other (R79), the bytes of a round key (R80, R81), that the equivalent
inverse cipher undoes the cipher under transformed keys (R82, R89), and what a valid and an invalid length make of an
EXPAND (R83 to R85). -/

namespace Sys2Proof.Machine

variable {s : State}

/-! ### The words of KeyExpansion (R79) -/

theorem getD_expandStep_length (nk : Nat) (w : List Word) :
    (expandStep nk w).getD w.length 0 =
      w.getD (w.length - nk) 0 ^^^ expansionTerm nk w.length (w.getD (w.length - 1) 0) := by
  rw [expandStep, List.getD_append_right _ _ _ _ le_rfl, Nat.sub_self, List.getD_cons_zero]

@[simp] theorem expandStep_length (nk : Nat) (w : List Word) : (expandStep nk w).length = w.length + 1 := by
  simp [expandStep]

@[simp] theorem expandSteps_length (nk n : Nat) (w : List Word) : (expandSteps nk n w).length = w.length + n := by
  induction n generalizing w with
  | zero => rfl
  | succ n ih => rw [expandSteps, ih, expandStep_length, Nat.add_right_comm, Nat.add_assoc]

/-- The turns of step 2 add words and leave those there are. -/
theorem getD_expandSteps_of_lt (nk n : Nat) {w : List Word} {i : Nat} (hi : i < w.length) :
    (expandSteps nk n w).getD i 0 = w.getD i 0 := by
  induction n generalizing w with
  | zero => rfl
  | succ n ih =>
    rw [expandSteps, ih (by rw [expandStep_length]; omega), expandStep, List.getD_append _ _ _ _ hi]

/-- Every word added meets the recurrence: it did when it was added, and no word it was made of has changed. -/
theorem getD_expandSteps_recurrence {nk : Nat} (hnk : 0 < nk) (n : Nat) {w : List Word} (hw : nk ≤ w.length) {i : Nat}
    (hlo : w.length ≤ i) (hhi : i < w.length + n) :
    (expandSteps nk n w).getD i 0 =
      (expandSteps nk n w).getD (i - nk) 0 ^^^ expansionTerm nk i ((expandSteps nk n w).getD (i - 1) 0) := by
  induction n generalizing w with
  | zero => omega
  | succ n ih =>
    have hlen := expandStep_length nk w
    obtain rfl | hlt := Nat.eq_or_lt_of_le hlo
    · have hkept : ∀ j < w.length, (expandSteps nk (n + 1) w).getD j 0 = w.getD j 0 := fun j hj =>
        getD_expandSteps_of_lt nk (n + 1) hj
      have hnew : (expandSteps nk (n + 1) w).getD w.length 0 = (expandStep nk w).getD w.length 0 :=
        getD_expandSteps_of_lt nk n (by omega)
      rw [hnew, hkept _ (by omega), hkept _ (by omega), getD_expandStep_length]
    · exact ih (w := expandStep nk w) (by omega) (by omega) (by omega)

theorem four_le_nk (v : Variant) : 4 ≤ v.nk := by cases v <;> decide

theorem nk_le_wordCount (v : Variant) : v.nk ≤ 4 * (v.rounds + 1) := by cases v <;> decide

theorem keyExpansion_length (v : Variant) (key : List Byte) : (keyExpansion v key).length = 4 * (v.rounds + 1) := by
  rw [keyExpansion, expandSteps_length, List.length_map, List.length_range, Nat.add_sub_cancel' (nk_le_wordCount v)]

/-- The first Nk words are the key's. -/
theorem getD_keyExpansion_of_lt {v : Variant} (key : List Byte) {i : Nat} (hi : i < v.nk) :
    (keyExpansion v key).getD i 0 = word key i := by
  rw [keyExpansion, getD_expandSteps_of_lt _ _ (by simpa using hi)]
  simp [List.getD_eq_getElem?_getD, List.getElem?_range hi]

theorem getD_keyExpansion_recurrence {v : Variant} (key : List Byte) {i : Nat} (hlo : v.nk ≤ i)
    (hhi : i < 4 * (v.rounds + 1)) :
    (keyExpansion v key).getD i 0 =
      (keyExpansion v key).getD (i - v.nk) 0 ^^^ expansionTerm v.nk i ((keyExpansion v key).getD (i - 1) 0) := by
  have hfour := four_le_nk v
  have hlen : ((List.range v.nk).map (word key)).length = v.nk := by simp
  exact getD_expandSteps_recurrence (by omega) _ hlen.ge (by omega) (by omega)

/-! ### The bytes of a round key (R80, R81) -/

/-- Byte `4j + m` of a string of words' bytes is byte `m` of word `j` (R10). -/
theorem getD_bytesOf (ws : List Word) (j : Nat) {m : Nat} (hm : m < 4) :
    (bytesOf ws).getD (4 * j + m) 0 = (bytes (ws.getD j 0)).getD m 0 := by
  induction ws generalizing j with
  | nil =>
    have hzero : ∀ m < 4, (0 : Byte) = (bytes 0).getD m 0 := by decide
    exact hzero m hm
  | cons w ws ih =>
    have hcons : bytesOf (w :: ws) = bytes w ++ bytesOf ws := rfl
    have hlen : (bytes w).length = 4 := rfl
    cases j with
    | zero => rw [hcons, Nat.mul_zero, Nat.zero_add, List.getD_append _ _ _ _ (hlen ▸ hm), List.getD_cons_zero]
    | succ j =>
      rw [hcons, List.getD_append_right _ _ _ _ (by omega), List.getD_cons_succ, ← ih]
      congr 1
      omega

/-- Byte `m` of word `j` of a byte string is its byte `4j + m` (R10). -/
theorem getD_bytes_word (b : List Byte) (j : Nat) {m : Nat} (hm : m < 4) :
    (bytes (word b j)).getD m 0 = b.getD (4 * j + m) 0 := by
  rw [word, bytes_append]
  match m, hm with
  | 0, _ | 1, _ | 2, _ | 3, _ => rfl

/-- A round key is the bytes of its four words. -/
theorem bytesOfBlock_rkGroup (w : List Word) (r : Nat) :
    bytesOfBlock (rkGroup w r) =
      bytesOf [w.getD (4 * r) 0, w.getD (4 * r + 1) 0, w.getD (4 * r + 2) 0, w.getD (4 * r + 3) 0] := rfl

/-- The words of round key `r` are `w[4r]` to `w[4r + 3]`. -/
theorem getD_roundKeyWords (w : List Word) (r : Nat) {j : Nat} (hj : j < 4) :
    [w.getD (4 * r) 0, w.getD (4 * r + 1) 0, w.getD (4 * r + 2) 0, w.getD (4 * r + 3) 0].getD j 0 =
      w.getD (4 * r + j) 0 := by
  match j, hj with
  | 0, _ | 1, _ | 2, _ | 3, _ => rfl

theorem getD_bytesOfBlock_rkGroup (w : List Word) (r : Nat) {j m : Nat} (hj : j < 4) (hm : m < 4) :
    (bytesOfBlock (rkGroup w r)).getD (4 * j + m) 0 = (bytes (w.getD (4 * r + j) 0)).getD m 0 := by
  rw [bytesOfBlock_rkGroup, getD_bytesOf _ j hm, getD_roundKeyWords w r hj]

/-- Round key 0 is the first four words of the key, which are its first 16 bytes. -/
theorem bytesOfBlock_encSchedule_zero {v : Variant} {key : List Byte} (hlen : key.length = 4 * v.nk) :
    bytesOfBlock (encSchedule v key 0) = key.take 16 := by
  have hfour := four_le_nk v
  have hblock : (bytesOfBlock (encSchedule v key 0)).length = 16 := rfl
  refine List.ext_getElem (by rw [hblock, List.length_take]; omega) fun i hi _ => ?_
  have hbyte : (bytesOfBlock (encSchedule v key 0)).getD (4 * (i / 4) + i % 4) 0 =
      key.getD (4 * (i / 4) + i % 4) 0 := by
    rw [encSchedule, getD_bytesOfBlock_rkGroup _ 0 (by omega) (by omega),
      getD_keyExpansion_of_lt key (by omega), getD_bytes_word _ _ (by omega), Nat.mul_zero, Nat.zero_add]
  rw [Nat.div_add_mod, List.getD_eq_getElem _ _ hi, List.getD_eq_getElem _ _ (by omega)] at hbyte
  rw [hbyte, List.getElem_take]

/-! ### The keys of the equivalent inverse cipher (R82) -/

/-- R82: the round keys `dk` are the equivalent inverse cipher's for `rk`, as far as `n` rounds read them. -/
structure EquivInverseKeys (n : Nat) (rk dk : Nat → Block) : Prop where
  first : dk 0 = rk 0
  last : dk n = rk n
  middle : ∀ r, 1 ≤ r → r < n → dk r = invMixColumns (rk r)

theorem equivInverseKeys_decKeys (n : Nat) (rk : Nat → Block) : EquivInverseKeys n rk (decKeys n rk) where
  first := if_pos (.inl rfl)
  last := if_pos (.inr rfl)
  middle _ _ _ := if_neg (by omega)

/-- They depend on the round keys 0 to `n` alone. -/
theorem EquivInverseKeys.congr {n : Nat} {rk dk rk' dk' : Nat → Block} (h : EquivInverseKeys n rk dk)
    (hrk : ∀ r ≤ n, rk' r = rk r) (hdk : ∀ r ≤ n, dk' r = dk r) : EquivInverseKeys n rk' dk' where
  first := by rw [hdk 0 n.zero_le, hrk 0 n.zero_le, h.first]
  last := by rw [hdk n le_rfl, hrk n le_rfl, h.last]
  middle r hlo hhi := by rw [hdk r hhi.le, hrk r hhi.le, h.middle r hlo hhi]

/-! ### The equivalent inverse cipher undoes the cipher (R89) -/

/-- One inverse round undoes one round, SubBytes and ShiftRows of the round after it standing before both. -/
theorem eqInvCipherRound_cipherRound {rk dk : Nat → Block} {r : Nat} (h : dk r = invMixColumns (rk r)) (b : Block) :
    eqInvCipherRound dk (shiftRows (subBytes (cipherRound rk b r))) r = shiftRows (subBytes b) := by
  rw [eqInvCipherRound, ← invSubBytes_invShiftRows, invShiftRows_shiftRows, invSubBytes_subBytes, cipherRound,
    invMixColumns_addRoundKey, invMixColumns_mixColumns, h, addRoundKey_addRoundKey]

/-- The inverse rounds in reverse order undo the rounds. -/
theorem foldl_eqInvCipherRound_cipherRound {rk dk : Nat → Block} (rounds : List Nat)
    (h : ∀ r ∈ rounds, dk r = invMixColumns (rk r)) (b : Block) :
    rounds.reverse.foldl (eqInvCipherRound dk) (shiftRows (subBytes (rounds.foldl (cipherRound rk) b))) =
      shiftRows (subBytes b) := by
  induction rounds generalizing b with
  | nil => rfl
  | cons r rounds ih =>
    simp only [List.reverse_cons, List.foldl_append, List.foldl_cons, List.foldl_nil,
      ih fun r' hr' => h r' (.tail r hr')]
    exact eqInvCipherRound_cipherRound (h r List.mem_cons_self) b

theorem eqInvCipher_cipher {n : Nat} {rk dk : Nat → Block} (h : EquivInverseKeys n rk dk) (b : Block) :
    eqInvCipher (cipher b rk n) dk n = b := by
  have hmiddle : ∀ r ∈ middleRounds n, dk r = invMixColumns (rk r) := by
    intro r hr
    obtain ⟨hlo, hhi⟩ := List.mem_range'_1.mp hr
    exact h.middle r hlo (by omega)
  rw [eqInvCipher, cipher, h.last, addRoundKey_addRoundKey, foldl_eqInvCipherRound_cipherRound _ hmiddle,
    ← invSubBytes_invShiftRows, invShiftRows_shiftRows, invSubBytes_subBytes, h.first, addRoundKey_addRoundKey]

/-! ### What the length makes of an EXPAND (R83 to R85) -/

theorem variant_of_mem {keylen : Nat} {v : Variant}
    (h : (keylen, v) ∈ [(16, Variant.aes128), (24, .aes192), (32, .aes256)]) : variant keylen = some v := by
  rw [variant_eq_some]
  simp only [List.mem_cons, List.not_mem_nil, Prod.mk.injEq, or_false] at h
  obtain ⟨rfl, rfl⟩ | ⟨rfl, rfl⟩ | ⟨rfl, rfl⟩ := h <;> rfl

theorem variant_eq_none {keylen : Nat} (h16 : keylen ≠ 16) (h24 : keylen ≠ 24) (h32 : keylen ≠ 32) :
    variant keylen = none := by
  rw [variant, if_neg h16, if_neg h24, if_neg h32]

section

variable {snap : Snap} {keylen : Nat} {v : Variant} (d : Direction) (f : Variant → List Byte → Nat → Block)

/-- An invalid length is reported, and nothing else is written. -/
theorem expandCommand_of_invalid (hb : s.eng = .busy snap) (h16 : keylen ≠ 16) (h24 : keylen ≠ 24)
    (h32 : keylen ≠ 32) : expandCommand d f keylen s = .next { s with err := .invalidKeyLength, eng := .idle } := by
  rw [expandCommand, inFlight_busy _ hb, variant_eq_none h16 h24 h32]
  rfl

/-- A valid length's EXPAND holds the schedule. -/
theorem expandCommand_of_variant (hb : s.eng = .busy snap) (hv : variant keylen = some v) :
    expandCommand d f keylen s = .next ((s.holdSchedule v d (f v (snap.rawKey v))).finish .none) := by
  rw [expandCommand, inFlight_busy _ hb, hv]

theorem getElem_rk (s : State) (r : Fin 15) : s.rk[r] = s.roundKey r := by
  simp [State.roundKey]

/-- What a valid length's EXPAND writes, field by field and round key by round key. -/
theorem expandCommand_completes (hb : s.eng = .busy snap) (hv : variant keylen = some v) :
    ∃ rk : Vector Block 15,
      expandCommand d f keylen s =
        .next { s with rk := rk, kv := true, kdir := d, ksize := v.ksize, err := .none, eng := .idle } ∧
      ∀ r : Fin 15, rk[r] = if r.val ≤ v.rounds then f v (snap.rawKey v) r.val else Block.zero :=
  ⟨_, expandCommand_of_variant d f hb hv,
    fun r => (getElem_rk _ r).trans (roundKey_holdSchedule s v d (f v (snap.rawKey v)) r.isLt)⟩

end

/-! ### The schedule a state holds (R84, R85) -/

/-- The state holds a schedule of the variant and the direction, with the round keys `k` in RK[0..N]. -/
structure State.Holds (s : State) (v : Variant) (d : Direction) (k : Nat → Block) : Prop where
  kv : s.kv = true
  kdir : s.kdir = d
  ksize : s.ksize = v.ksize
  roundKey : ∀ r ≤ v.rounds, s.roundKey r = k r

theorem rounds_lt (v : Variant) : v.rounds < 15 := by cases v <;> decide

/-- A valid length's EXPAND answers a state that holds its schedule. -/
theorem expandCommand_holds {snap : Snap} {keylen : Nat} {v : Variant} (d : Direction)
    (f : Variant → List Byte → Nat → Block) (hb : s.eng = .busy snap) (hv : variant keylen = some v) :
    ∃ t, expandCommand d f keylen s = .next t ∧ t.Holds v d (f v (snap.rawKey v)) :=
  ⟨_, expandCommand_of_variant d f hb hv, rfl, rfl, rfl, fun _ hr =>
    (roundKey_holdSchedule s v d _ (hr.trans_lt (rounds_lt v))).trans (if_pos hr)⟩

/-- Under a schedule of its direction a block command writes its result (R90, R91). -/
theorem blockCommand_of_holds {snap : Snap} {v : Variant} {d : Direction} {k : Nat → Block}
    (f : Block → (Nat → Block) → Nat → Block) (hb : s.eng = .busy snap) (h : s.Holds v d k) :
    ∃ t, blockCommand d f s = .next t ∧ t.dout = wordsOfBlock (f snap.block s.roundKey v.rounds) ∧
      t.err = .none := by
  rw [blockCommand, inFlight_busy _ hb]
  simp [h.kv, h.kdir, h.ksize, roundCount_ksize]

/-- What ENG holds is no part of the schedule. -/
theorem State.Holds.withEng {v : Variant} {d : Direction} {k : Nat → Block} (h : s.Holds v d k) (eng : Engine) :
    State.Holds { s with eng := eng } v d k := ⟨h.kv, h.kdir, h.ksize, h.roundKey⟩

/-- The two schedules of one key, whatever states hold them (R82). -/
theorem State.Holds.equivInverseKeys {t : State} {v : Variant} {key : List Byte}
    (hs : s.Holds v .encrypt (encSchedule v key)) (ht : t.Holds v .decrypt (decSchedule v key)) :
    EquivInverseKeys v.rounds s.roundKey t.roundKey :=
  (equivInverseKeys_decKeys v.rounds (encSchedule v key)).congr hs.roundKey ht.roundKey

/-! ### The obligations -/

/-- Settles O26: the turns of step 2 keep the key's words and add words that meet the recurrence. -/
theorem keyExpansionRecurrence : Obligations.KeyExpansionRecurrence := fun v key _ =>
  ⟨keyExpansion_length v key, fun _ hi => getD_keyExpansion_of_lt key hi,
    fun _ hlo hhi => getD_keyExpansion_recurrence key hlo hhi⟩

/-- Settles O27, from the four words whose bytes the round key is. -/
theorem roundKeyGrouping : Obligations.RoundKeyGrouping := by
  intro w r j m hj hm
  refine ⟨by simp [bytesOfBlock_rkGroup, bytesOf], getD_bytesOfBlock_rkGroup w r hj hm, ?_⟩
  rw [bytesOfBlock_rkGroup, word_bytesOf, getD_roundKeyWords w r hj]

/-- Settles O28: the Decrypt direction does not transform round key 0. -/
theorem firstRoundKeyIsKeyStart : Obligations.FirstRoundKeyIsKeyStart := by
  intro v key hlen
  have hfirst : decSchedule v key 0 = encSchedule v key 0 := (equivInverseKeys_decKeys v.rounds _).first
  rw [hfirst]
  exact ⟨bytesOfBlock_encSchedule_zero hlen, bytesOfBlock_encSchedule_zero hlen⟩

/-- Settles O23, by the table of lengths and what an invalid one makes of an EXPAND of either direction. -/
theorem keyLengthSelectsVariant : Obligations.KeyLengthSelectsVariant :=
  ⟨rfl, rfl, rfl, rfl, rfl, rfl, rfl, rfl, rfl, rfl, rfl, rfl, rfl, fun _ _ _ hb h16 h24 h32 =>
    ⟨expandCommand_of_invalid .encrypt encSchedule hb h16 h24 h32,
      expandCommand_of_invalid .decrypt decSchedule hb h16 h24 h32⟩⟩

/-- Settles O24: the word's row, and EXPAND's two ends with the Encrypt direction's schedule. -/
theorem expandEncCompletes : Obligations.ExpandEncCompletes :=
  ⟨fun v hrow => (decode_eq_instr_iff_row v (.expandEnc _)).mpr ⟨hrow, rfl⟩,
    fun _ _ _ _ hb hmem => expandCommand_completes .encrypt encSchedule hb (variant_of_mem hmem),
    fun _ _ _ hb => expandCommand_of_invalid .encrypt encSchedule hb⟩

/-- Settles O25: the word's row, and EXPAND's two ends with the Decrypt direction's schedule. -/
theorem expandDecCompletes : Obligations.ExpandDecCompletes :=
  ⟨fun v hrow => (decode_eq_instr_iff_row v (.expandDec _)).mpr ⟨hrow, rfl⟩,
    fun _ _ _ _ hb hmem => expandCommand_completes .decrypt decSchedule hb (variant_of_mem hmem),
    fun _ _ _ hb => expandCommand_of_invalid .decrypt decSchedule hb⟩

/-- Settles O29: the schedules held are those of R82 for one key. -/
theorem decryptScheduleTransformsMiddleKeys : Obligations.DecryptScheduleTransformsMiddleKeys := by
  intro s snap keylen v hb hv
  obtain ⟨e, he, henc⟩ := expandCommand_holds .encrypt encSchedule hb hv
  obtain ⟨d, hd, hdec⟩ := expandCommand_holds .decrypt decSchedule hb hv
  obtain ⟨hfirst, hlast, hmiddle⟩ := henc.equivInverseKeys hdec
  exact ⟨e, d, he, hd, hfirst, hlast, hmiddle⟩

/-- Settles O52: DECRYPT's result is the equivalent inverse cipher's of the cipher's, under the two schedules held. -/
theorem machineRoundTrip : Obligations.MachineRoundTrip := by
  intro s keylen v k x c1 c2 c3 c4 k2 k4 x1 x3 hv
  obtain ⟨e, he, henc⟩ := expandCommand_holds .encrypt encSchedule
    (s := { s with eng := .busy { cmd := c1, key := k, din := x1 } }) rfl hv
  obtain ⟨c, hc, hcdout, -⟩ :=
    blockCommand_of_holds cipher rfl (henc.withEng (.busy { cmd := c2, key := k2, din := x }))
  obtain ⟨d, hd, hdec⟩ := expandCommand_holds .decrypt decSchedule
    (s := { c with eng := .busy { cmd := c3, key := k, din := x3 } }) rfl hv
  obtain ⟨p, hp, hpdout, hperr⟩ :=
    blockCommand_of_holds eqInvCipher rfl (hdec.withEng (.busy { cmd := c4, key := k4, din := c.dout }))
  have hcipher : blockOfWords c.dout = cipher (blockOfWords x) e.roundKey v.rounds :=
    (congrArg blockOfWords hcdout).trans (blockOfWords_wordsOfBlock _)
  refine ⟨e, c, d, p, he, hc, hd, hp, ?_, hperr⟩
  calc
    p.dout = wordsOfBlock (eqInvCipher (blockOfWords c.dout) d.roundKey v.rounds) := hpdout
    _ = wordsOfBlock (blockOfWords x) := by rw [hcipher, eqInvCipher_cipher (henc.equivInverseKeys hdec)]
    _ = x := wordsOfBlock_blockOfWords x

end Sys2Proof.Machine
end

section
/-! The obligations about the block transform (42_block_transform.md), and the rules they rest on: the inverse ciphers
go through the same states (R88), the cipher is a permutation of the blocks (R89), and what the held schedule makes of a
block command (R90, R91). -/

namespace Sys2Proof.Machine

/-! ### The inverse ciphers (R88, R89) -/

section

variable {n : Nat} {rk dk : Nat → Block}

theorem EquivInverseKeys.of_mem_middleRounds (h : EquivInverseKeys n rk dk) {r : Nat} (hr : r ∈ middleRounds n) :
    dk r = invMixColumns (rk r) := by
  obtain ⟨hlo, hhi⟩ := List.mem_range'_1.mp hr
  exact h.middle r hlo (by omega)

/-- InvMixColumns is linear, so it may come before the round key if the key is transformed (R76, R82). -/
theorem invCipherRound_eq_eqInvCipherRound {r : Nat} (h : dk r = invMixColumns (rk r)) (s : Block) :
    invCipherRound rk s r = eqInvCipherRound dk s r := by
  rw [invCipherRound, eqInvCipherRound, invMixColumns_addRoundKey, invSubBytes_invShiftRows, h]

theorem invCipher_eq_eqInvCipher (h : EquivInverseKeys n rk dk) (b : Block) :
    invCipher b rk n = eqInvCipher b dk n := by
  have hrounds : (middleRounds n).reverse.foldl (invCipherRound rk) (addRoundKey b (rk n)) =
      (middleRounds n).reverse.foldl (eqInvCipherRound dk) (addRoundKey b (rk n)) :=
    List.foldl_ext _ _ _ fun s r hr =>
      invCipherRound_eq_eqInvCipherRound (h.of_mem_middleRounds (List.mem_reverse.mp hr)) s
  rw [invCipher, eqInvCipher, hrounds, invSubBytes_invShiftRows, h.first, h.last]

theorem finite_block : Finite Block :=
  Finite.of_injective Block.byte fun _ _ h => Block.ext_byte fun r c => congrFun (congrFun h r) c

/-- There are finitely many blocks, so what undoes the cipher is undone by it. -/
theorem cipher_eqInvCipher (h : EquivInverseKeys n rk dk) (b : Block) : cipher (eqInvCipher b dk n) rk n = b := by
  have hleft : Function.LeftInverse (eqInvCipher · dk n) (cipher · rk n) := eqInvCipher_cipher h
  have hfinite : Finite Block := finite_block
  exact hleft.rightInverse_of_surjective (Finite.surjective_of_injective hleft.injective) b

end

/-! ### What the held schedule makes of a block command (R90, R91) -/

section

variable {s : State} {snap : Snap} {d : Direction} (f : Block → (Nat → Block) → Nat → Block)

theorem blockCommand_of_noSchedule (hb : s.eng = .busy snap) (hkv : s.kv = false) :
    blockCommand d f s = .next { s with err := .noSchedule, eng := .idle } := by
  rw [blockCommand, inFlight_busy _ hb, if_pos hkv]
  rfl

theorem blockCommand_of_otherDirection (hb : s.eng = .busy snap) (hkv : s.kv = true) (hd : s.kdir ≠ d) :
    blockCommand d f s = .next { s with err := .directionMismatch, eng := .idle } := by
  rw [blockCommand, inFlight_busy _ hb, if_neg (by simp [hkv]), if_pos hd]
  rfl

theorem blockCommand_of_schedule {n : Nat} (hb : s.eng = .busy snap) (hkv : s.kv = true) (hd : s.kdir = d)
    (hn : roundCount s.ksize = some n) :
    blockCommand d f s =
      .next { s with dout := wordsOfBlock (f snap.block s.roundKey n), err := .none, eng := .idle } := by
  rw [blockCommand, inFlight_busy _ hb, if_neg (by simp [hkv]), if_neg (not_not.mpr hd), hn]
  rfl

/-- Nothing of the state but the schedule, and nothing of SNAP but DIN, is read. -/
theorem blockCommand_congr {s' t : State} {snap' : Snap} (hb : s.eng = .busy snap) (hb' : s'.eng = .busy snap')
    (hdin : snap.din = snap'.din) (hrk : s.rk = s'.rk) (hkv : s.kv = s'.kv) (hkdir : s.kdir = s'.kdir)
    (hksize : s.ksize = s'.ksize) (h : blockCommand d f s = .next t) :
    ∃ t', blockCommand d f s' = .next t' ∧ t'.err = t.err ∧ (t.err = .none → t'.dout = t.dout) := by
  obtain ⟨snap₀, hbusy, ⟨hk, rfl⟩ | ⟨hk, hd, rfl⟩ | ⟨hk, hd, n, hn, rfl⟩⟩ := blockCommand_next h
  · exact ⟨_, blockCommand_of_noSchedule f hb' (hkv ▸ hk), rfl, by simp⟩
  · exact ⟨_, blockCommand_of_otherDirection f hb' (hkv ▸ hk) (hkdir ▸ hd), rfl, by simp⟩
  · obtain rfl : snap = snap₀ := Engine.busy.inj (hb.symm.trans hbusy)
    have hblock : snap'.block = snap.block := congrArg blockOfWords hdin.symm
    have hkeys : s'.roundKey = s.roundKey := funext (roundKey_congr hrk.symm)
    exact ⟨_, blockCommand_of_schedule f hb' (hkv ▸ hk) (hkdir ▸ hd) (hksize ▸ hn), rfl, fun _ => by
      rw [hblock, hkeys, State.finish_dout]⟩

end

/-- NR(KSIZE), the number of rounds (R21). -/
theorem roundCount_of_mem {k : KSize} {n : Nat}
    (h : (k, n) ∈ [(KSize.aes128, 10), (.aes192, 12), (.aes256, 14)]) : roundCount k = some n := by
  simp only [List.mem_cons, List.not_mem_nil, Prod.mk.injEq, or_false] at h
  obtain ⟨rfl, rfl⟩ | ⟨rfl, rfl⟩ | ⟨rfl, rfl⟩ := h <;> rfl

/-! ### The obligations -/

/-- Settles O32: ENCRYPT and DECRYPT are block commands. -/
theorem blockResultDependsOnScheduleAndBlock : Obligations.BlockResultDependsOnScheduleAndBlock := by
  rintro i s s' t snap snap' (rfl | rfl) hb hb' hdin hrk hkv hkdir hksize h
  · exact blockCommand_congr cipher hb hb' hdin hrk hkv hkdir hksize h
  · exact blockCommand_congr eqInvCipher hb hb' hdin hrk hkv hkdir hksize h

/-- Settles O50: the two ciphers agree round by round, DecKeys being the transformed keys. -/
theorem textbookInverseAgrees : Obligations.TextbookInverseAgrees := fun input rk n _ =>
  invCipher_eq_eqInvCipher (equivInverseKeys_decKeys n rk) input

/-- Settles O51: the inverse rounds undo the rounds, and the other order follows since the blocks are finite. -/
theorem roundTripLaw : Obligations.RoundTripLaw := fun v _ b _ =>
  have hkeys := equivInverseKeys_decKeys v.rounds _
  ⟨eqInvCipher_cipher hkeys b, cipher_eqInvCipher hkeys b⟩

/-- Settles O30: the word, and the three ends of a block command that needs the Encrypt direction. -/
theorem encryptCompletes : Obligations.EncryptCompletes :=
  ⟨decodeOfEncode .encrypt rfl, fun _ _ hb =>
    ⟨blockCommand_of_noSchedule cipher hb, blockCommand_of_otherDirection cipher hb,
      fun hkv hd _ _ hmem hk => blockCommand_of_schedule cipher hb hkv hd (hk ▸ roundCount_of_mem hmem)⟩⟩

/-- Settles O31: the word, and the three ends of a block command that needs the Decrypt direction. -/
theorem decryptCompletes : Obligations.DecryptCompletes :=
  ⟨decodeOfEncode .decrypt rfl, fun _ _ hb =>
    ⟨blockCommand_of_noSchedule eqInvCipher hb, blockCommand_of_otherDirection eqInvCipher hb,
      fun hkv hd _ _ hmem hk => blockCommand_of_schedule eqInvCipher hb hkv hd (hk ▸ roundCount_of_mem hmem)⟩⟩

end Sys2Proof.Machine
end

section
/-! The obligations about NOP, CLEAR and what no command touches (43_control.md), and the rules they rest on: what the
two control commands answer, and which completions leave KEY, DIN and RK alone. -/

namespace Sys2Proof.Machine

variable {s t : State}

/-! ### NOP and CLEAR (R92, R93) -/

theorem exec_nop_of_busy {snap : Snap} (hb : s.eng = .busy snap) : exec .nop s = .next (s.finish .none) :=
  inFlight_busy _ hb

theorem exec_clear_of_busy {snap : Snap} (hb : s.eng = .busy snap) : exec .clear s = .next (s.erase.finish .none) :=
  inFlight_busy _ hb

/-- Erasing and finishing without an error give every register but OVR its reset value. -/
theorem erase_finish_coreIsReset (s : State) : State.CoreIsReset { s.erase.finish .none with ovr := false } :=
  ⟨rfl, rfl, rfl, rfl, rfl, rfl, rfl, rfl, rfl, rfl⟩

/-! ### What no completion but some touches (R28, R94) -/

/-- Of the commands only CLEAR erases, and nothing else a completion does writes the operand registers. -/
theorem exec_keeps_key_din {i : Instr} (hi : i ≠ .clear) (h : exec i s = .next t) : t.key = s.key ∧ t.din = s.din := by
  obtain ⟨-, ⟨e, rfl⟩ | ⟨v, d, k, keylen, -, -, rfl⟩ | ⟨w, -, -, rfl⟩ | ⟨hclear, -⟩⟩ := exec_next h
  · exact ⟨rfl, rfl⟩
  · exact ⟨rfl, rfl⟩
  · exact ⟨rfl, rfl⟩
  · exact absurd hclear hi

/-- Whatever a block command reports, it only reads the round keys. -/
theorem blockCommand_keeps_rk {d : Direction} {f : Block → (Nat → Block) → Nat → Block}
    (h : blockCommand d f s = .next t) : t.rk = s.rk := by
  obtain ⟨snap, -, ⟨-, rfl⟩ | ⟨-, -, rfl⟩ | ⟨-, -, n, -, rfl⟩⟩ := blockCommand_next h <;> rfl

/-! ### The obligations -/

/-- Settles O37: of the commands only CLEAR erases, ENCRYPT and DECRYPT are block commands, and RK and KV are in the
frame of every write. -/
theorem completionsKeepKeyAndDin : Obligations.CompletionsKeepKeyAndDin := by
  refine ⟨fun _ _ _ => exec_keeps_key_din, ?block, ?write⟩
  case block =>
    rintro i s t (rfl | rfl) h
    · exact blockCommand_keeps_rk (d := .encrypt) (f := cipher) h
    · exact blockCommand_keeps_rk (d := .decrypt) (f := eqInvCipher) h
  case write =>
    intro s off v
    obtain ⟨-, hrk, hkv, -⟩ := busWrite_frame s off v
    exact ⟨hrk, hkv⟩

/-- Settles O21: the word is NOP's encoding, and NOP only finishes. -/
theorem nopCompletes : Obligations.NopCompletes :=
  ⟨decodeOfEncode .nop rfl, fun _ _ => exec_nop_of_busy⟩

/-- Settles O22: the word is CLEAR's encoding, and CLEAR erases and finishes. -/
theorem clearCompletes : Obligations.ClearCompletes :=
  ⟨decodeOfEncode .clear rfl, fun s _ hb => ⟨_, exec_clear_of_busy hb, rfl, erase_finish_coreIsReset s⟩⟩

end Sys2Proof.Machine
end

section
/-! The obligations about the result codes (60_exceptions.md), and the rules they rest on: the code each kind of command
leaves, and that a completion with an error has no other effect (R95 to R98). -/

namespace Sys2Proof.Machine

variable {s t : State}

/-! ### The code a completion leaves (R98) -/

theorem mem_validLengths_iff (keylen : Nat) : keylen ∈ [16, 24, 32] ↔ ∃ v, variant keylen = some v where
  mp h := by
    simp only [List.mem_cons, List.not_mem_nil, or_false] at h
    obtain rfl | rfl | rfl := h <;> exact ⟨_, rfl⟩
  mpr := by
    rintro ⟨v, hv⟩
    rw [variant_eq_some] at hv
    cases v <;> simp [hv, Variant.nk]

/-- EXPAND makes one check, the length's. -/
theorem expandCommand_err {d : Direction} {f : Variant → List Byte → Nat → Block} {keylen : Nat}
    (h : expandCommand d f keylen s = .next t) :
    t.err = if keylen ∈ [16, 24, 32] then .none else .invalidKeyLength := by
  have hlen := mem_validLengths_iff keylen
  obtain ⟨snap, -, ⟨hv, rfl⟩ | ⟨v, hv, rfl⟩⟩ := expandCommand_next h
  · exact (if_neg (mt hlen.mp (by simp [hv]))).symm
  · exact (if_pos (hlen.mpr ⟨v, hv⟩)).symm

theorem Direction.ne_encrypt_iff (d : Direction) : d ≠ .encrypt ↔ d = .decrypt := by cases d <;> decide

theorem Direction.ne_decrypt_iff (d : Direction) : d ≠ .decrypt ↔ d = .encrypt := by cases d <;> decide

/-- A block command checks for a schedule first, and for the direction it needs second; `other` is the one it does not
need. -/
theorem blockCommand_err {d other : Direction} {f : Block → (Nat → Block) → Nat → Block}
    (hother : ∀ k, k ≠ d ↔ k = other) (h : blockCommand d f s = .next t) :
    t.err = if s.kv = false then .noSchedule else if s.kdir = other then .directionMismatch else .none := by
  obtain ⟨snap, -, ⟨hkv, rfl⟩ | ⟨hkv, hd, rfl⟩ | ⟨hkv, hd, n, -, rfl⟩⟩ := blockCommand_next h
  · simp [hkv]
  · simp [hkv, (hother s.kdir).mp hd]
  · simp [hkv, ← hother, hd]

/-! ### What a failed completion changes (R96) -/

/-- Holding a schedule, writing DOUT and erasing all end without an error. -/
theorem complete_of_err {cmd : Word} (h : complete cmd s = .next t) (he : t.err ≠ .none) : t = s.finish t.err := by
  obtain ⟨e, rfl⟩ | ⟨v, d, k, keylen, -, -, rfl⟩ | ⟨w, -, -, rfl⟩ | ⟨-, rfl⟩ := complete_effect h
  · rfl
  · exact absurd rfl he
  · exact absurd rfl he
  · exact absurd rfl he

/-! ### The obligations -/

/-- Settles O33: the word is legal or not, and each legal command leaves the code of its own checks. -/
theorem oneCodeInCheckOrder : Obligations.OneCodeInCheckOrder := by
  refine ⟨rfl, rfl, rfl, rfl, rfl, fun s snap hs hm hb => ?_⟩
  obtain ⟨hsched, -⟩ := (inv_iff s).mp hs
  have hturn : s.turnTaken.ScheduleInv := hsched.congr rfl rfl rfl rfl
  obtain ⟨t, ht⟩ := complete_answers hturn (show s.turnTaken.eng = .busy snap from hb) snap.cmd
  refine ⟨t, (step_of_busy hm hb).trans ht, ?_⟩
  obtain ⟨⟨why, hd⟩, rfl⟩ | ⟨i, hd, hx⟩ := complete_next ht
  · rw [hd, State.raiseError_err]
  · rw [hd]
    cases i with
    | nop =>
      obtain ⟨-, -, rfl⟩ := execNop_next hx
      rfl
    | expandEnc keylen => exact expandCommand_err (d := .encrypt) (f := encSchedule) hx
    | expandDec keylen => exact expandCommand_err (d := .decrypt) (f := decSchedule) hx
    | encrypt => exact blockCommand_err (s := s.turnTaken) (f := cipher) Direction.ne_encrypt_iff hx
    | decrypt => exact blockCommand_err (s := s.turnTaken) (f := eqInvCipher) Direction.ne_decrypt_iff hx
    | clear =>
      obtain ⟨-, -, rfl⟩ := execClear_next hx
      rfl

/-- Settles O34: the engine's step is the completion of the word in SNAP, which with an error only finishes. -/
theorem failedCommandOnlyReports : Obligations.FailedCommandOnlyReports := by
  intro s t snap hm hb h he
  rw [step_of_busy hm hb] at h
  exact complete_of_err h he

end Sys2Proof.Machine
end

section
/-! The obligations about the command protocol, reset, liveness and the end of a run (70_reset_and_hazards.md), and the
rules they rest on: which updates of the state no completion sees, that a command in flight outlasts the host's turns,
and what the turns of a host with no access left do. -/

namespace Sys2Proof.Machine

variable {s t : State}

/-! ### The engine's turn (R116) -/

theorem complete_of_instr {cmd : Word} {i : Instr} (hd : decode cmd = .instr i) (s : State) :
    complete cmd s = exec i s := by
  simp only [complete, hd]

/-- An idle engine's turn passes. -/
theorem engineTurn_idle (h : s.eng = .idle) : engineTurn s = .next s := by
  simp only [engineTurn, h]

/-! ### Which updates of the state no completion sees (R30, R116) -/

/-- An update of the state that no completion sees, but perhaps CLEAR's: it leaves ENG and the schedule alone and
commutes with what the other completions write. -/
structure Unseen (g : State → State) : Prop where
  eng : ∀ s, (g s).eng = s.eng
  kv : ∀ s, (g s).kv = s.kv
  kdir : ∀ s, (g s).kdir = s.kdir
  ksize : ∀ s, (g s).ksize = s.ksize
  rk : ∀ s, (g s).rk = s.rk
  finish : ∀ e s, (g s).finish e = g (s.finish e)
  holdSchedule : ∀ v d k s, (g s).holdSchedule v d k = g (s.holdSchedule v d k)
  dout : ∀ w s, { g s with dout := w } = g { s with dout := w }

section

variable {g : State → State} (hg : Unseen g)

include hg

theorem Unseen.expandCommand {d : Direction} {f : Variant → List Byte → Nat → Block} {keylen : Nat}
    (h : expandCommand d f keylen s = .next t) : Machine.expandCommand d f keylen (g s) = .next (g t) := by
  obtain ⟨snap, hb, ⟨hv, rfl⟩ | ⟨v, hv, rfl⟩⟩ := expandCommand_next h
  · rw [Machine.expandCommand, inFlight_busy _ ((hg.eng s).trans hb), hv]
    exact congrArg _ (hg.finish _ s)
  · rw [expandCommand_of_variant d f ((hg.eng s).trans hb) hv, hg.holdSchedule, hg.finish]

theorem Unseen.blockCommand {d : Direction} {f : Block → (Nat → Block) → Nat → Block}
    (h : blockCommand d f s = .next t) : Machine.blockCommand d f (g s) = .next (g t) := by
  have hkeys : (g s).roundKey = s.roundKey := funext (roundKey_congr (hg.rk s))
  obtain ⟨snap, hb, ⟨hkv, rfl⟩ | ⟨hkv, hd, rfl⟩ | ⟨hkv, hd, n, hn, rfl⟩⟩ := blockCommand_next h
  all_goals
    have hb' := (hg.eng s).trans hb
    have hkv' := (hg.kv s).trans hkv
  · exact (blockCommand_of_noSchedule f hb' hkv').trans (congrArg _ (hg.finish _ s))
  · exact (blockCommand_of_otherDirection f hb' hkv' (hg.kdir s ▸ hd)).trans (congrArg _ (hg.finish _ s))
  · have hresult := (congrArg (State.finish .none) (hg.dout (wordsOfBlock (f snap.block s.roundKey n)) s)).trans
      (hg.finish _ _)
    rw [blockCommand_of_schedule f hb' hkv' ((hg.kdir s).trans hd) ((congrArg roundCount (hg.ksize s)).trans hn), hkeys]
    exact congrArg _ hresult

/-- Every command completes alike after an update it does not see, and keeps what was updated. -/
theorem Unseen.exec {i : Instr} (hclear : i = .clear → ∀ s, (g s).erase = g s.erase) (h : exec i s = .next t) :
    Machine.exec i (g s) = .next (g t) := by
  cases i with
  | nop =>
    obtain ⟨snap, hb, rfl⟩ := execNop_next h
    rw [exec_nop_of_busy ((hg.eng s).trans hb), hg.finish]
  | expandEnc keylen => exact hg.expandCommand (d := .encrypt) (f := encSchedule) h
  | expandDec keylen => exact hg.expandCommand (d := .decrypt) (f := decSchedule) h
  | encrypt => exact hg.blockCommand (d := .encrypt) (f := cipher) h
  | decrypt => exact hg.blockCommand (d := .decrypt) (f := eqInvCipher) h
  | clear =>
    obtain ⟨snap, hb, rfl⟩ := execClear_next h
    rw [exec_clear_of_busy ((hg.eng s).trans hb), hclear rfl, hg.finish]

theorem Unseen.complete {cmd : Word} (hclear : ∀ s, (g s).erase = g s.erase) (h : complete cmd s = .next t) :
    Machine.complete cmd (g s) = .next (g t) := by
  cases hd : decode cmd with
  | illegal why =>
    obtain ⟨⟨snap, hb⟩, rfl⟩ := completeIllegal_next (s := s) (by simpa only [Machine.complete, hd] using h)
    rw [complete_of_illegal hd ((hg.eng s).trans hb)]
    exact congrArg _ (hg.finish _ s)
  | instr i =>
    rw [complete_of_instr hd] at h ⊢
    exact hg.exec (fun _ => hclear) h

end

/-- The operand registers are unseen: a command computes from SNAP (R30). -/
theorem unseen_operands (key : Vector Word 8) (din : Vector Word 4) :
    Unseen fun s => { s with key := key, din := din } where
  eng _ := rfl
  kv _ := rfl
  kdir _ := rfl
  ksize _ := rfl
  rk _ := rfl
  finish _ _ := rfl
  holdSchedule _ _ _ _ := rfl
  dout _ _ := rfl

/-- The core among other turns and inputs to come and other values read. -/
def State.withWorld (turns : List Turn) (inputs : List Input) (reads : List Word) (s : State) : State :=
  { s with turns := turns, inputs := inputs, reads := reads }

/-- The world outside is unseen (R45, R117). -/
theorem unseen_withWorld (turns : List Turn) (inputs : List Input) (reads : List Word) :
    Unseen (State.withWorld turns inputs reads) where
  eng _ := rfl
  kv _ := rfl
  kdir _ := rfl
  ksize _ := rfl
  rk _ := rfl
  finish _ _ := rfl
  holdSchedule _ _ _ _ := rfl
  dout _ _ := rfl

/-- A completion does not depend on the world outside, CLEAR's neither. -/
theorem complete_withWorld {cmd : Word} (turns : List Turn) (inputs : List Input) (reads : List Word)
    (h : complete cmd s = .next t) :
    complete cmd (s.withWorld turns inputs reads) = .next (t.withWorld turns inputs reads) :=
  (unseen_withWorld turns inputs reads).complete (fun _ => rfl) h

section

variable {ts : List Turn} {inputs rest : List Input} {reads : List Word}

/-- The draw puts the host's read first: it returns what the slot holds then. -/
theorem step_read_withWorld {off : Offset} (hr : s.inReset = false) (ha : off.val % 4 = 0) :
    step (s.withWorld (.input :: ts) (.access (.read .b32 off) :: rest) reads) =
      .next (s.withWorld ts rest (s.busRead off :: reads)) :=
  step_of_read (s := s.withWorld (.input :: ts) (.access (.read .b32 off) :: rest) reads) (.inl rfl) rfl hr ha

/-- The draw puts the completion first. -/
theorem step_complete_withWorld {snap : Snap} (hb : s.eng = .busy snap) (h : complete snap.cmd s = .next t) :
    step (s.withWorld (.engine :: ts) inputs reads) = .next (t.withWorld ts inputs reads) :=
  (step_of_busy (s := s.withWorld (.engine :: ts) inputs reads) (.inl rfl) hb).trans
    (complete_withWorld (s := s) ts inputs reads h)

end

/-! ### A command in flight outlasts the host's turns (R116, R117) -/

/-- An input leaves the turns and the inputs to come as they were. -/
theorem input_keeps_world {i : Input} (h : s.input i = .next t) : t.turns = s.turns ∧ t.inputs = s.inputs := by
  obtain ⟨-, rfl⟩ | ⟨-, rfl⟩ | ⟨a, -, -, ⟨-, rfl⟩ | ⟨-, rfl⟩⟩ := input_next h
  · exact ⟨rfl, rfl⟩
  · exact ⟨rfl, rfl⟩
  · cases a <;> exact ⟨rfl, rfl⟩
  · cases a with
    | read size off => exact ⟨rfl, rfl⟩
    | write size off v =>
      obtain ⟨-, -, -, -, -, -, -, hinputs, hturns, -⟩ := busWrite_frame s off v
      exact ⟨hturns, hinputs⟩

/-- The command with snapshot `snap` is in flight, and nothing is to come that could stop the run or abandon it. -/
structure State.Flying (snap : Snap) (s : State) : Prop where
  inv : s.Inv
  admitted : s.InputsAdmitted
  no_reset : Input.assertReset ∉ s.inputs
  busy : s.eng = .busy snap

/-- The host's turn is answered and leaves the command in flight. -/
theorem State.Flying.step_input {snap : Snap} (hf : s.Flying snap) (hm : s.InputMoves) :
    ∃ t, step s = .next t ∧ t.Flying snap ∧ t.turns = s.turns.tail := by
  cases hin : s.inputs with
  | nil =>
    have hstep : step s = .next s.turnTaken := by simp [Machine.step_input hm, inputTurn, hin]
    exact ⟨_, hstep, ⟨invariantKept _ _ hf.inv hstep, hf.admitted, hf.no_reset, hf.busy⟩, rfl⟩
  | cons i rest =>
    obtain ⟨t, ht⟩ : ∃ t, s.inputTaken.input i = .next t := by
      cases i with
      | access a => exact input_of_admitted _ (hf.admitted a (by simp [hin]))
      | assertReset | releaseReset => exact ⟨_, rfl⟩
    have hstep : step s = .next t := (step_of_input hm hin).trans ht
    obtain ⟨hturns, hinputs⟩ := input_keeps_world ht
    have hsub : ∀ j ∈ t.inputs, j ∈ s.inputs := fun j hj => by
      rw [hinputs] at hj
      exact List.mem_of_mem_tail hj
    obtain ⟨rfl, -⟩ | ⟨-, -, -, -, -, hbusy⟩ := input_effect ht
    · exact absurd (by simp [hin]) hf.no_reset
    · exact ⟨t, hstep, ⟨invariantKept _ _ hf.inv hstep, fun a ha => hf.admitted a (hsub _ ha),
        fun hr => hf.no_reset (hsub _ hr), hbusy snap hf.busy⟩, hturns⟩

/-- The engine's turn is answered and ends in IDLE. -/
theorem State.Flying.step_engine {snap : Snap} (hf : s.Flying snap) (hm : s.EngineMoves) :
    ∃ t, step s = .next t ∧ t.eng = .idle := by
  obtain ⟨hsched, -⟩ := (inv_iff s).mp hf.inv
  have hturn : s.turnTaken.ScheduleInv := hsched.congr rfl rfl rfl rfl
  obtain ⟨t, ht⟩ := complete_answers hturn (show s.turnTaken.eng = .busy snap from hf.busy) snap.cmd
  obtain ⟨hidle, -⟩ := complete_frame ht
  exact ⟨t, (step_of_busy hm hf.busy).trans ht, hidle⟩

/-- The host's turns that the draw puts first leave the command in flight, and then the engine has the turn. -/
theorem State.Flying.reaches_engine {snap : Snap} (hf : s.Flying snap) :
    ∃ k s', k ≤ s.turns.length ∧ core.run k s = .next s' ∧ s'.Flying snap ∧ s'.EngineMoves := by
  induction hts : s.turns generalizing s with
  | nil => exact ⟨0, s, Nat.le_refl 0, rfl, hf, .inr ⟨hts, by simp [hf.busy]⟩⟩
  | cons turn ts ih =>
    cases turn with
    | engine => exact ⟨0, s, Nat.zero_le _, rfl, hf, .inl (by simp [hts])⟩
    | input =>
      obtain ⟨t, hstep, hft, hturns⟩ := hf.step_input (.inl (by simp [hts]))
      obtain ⟨k, s', hk, hrun, hf', hm⟩ := ih hft (by simp [hturns, hts])
      exact ⟨k + 1, s', Nat.succ_le_succ hk, (run_succ k hstep).trans hrun, hf', hm⟩

/-! ### Reset (R112) -/

theorem State.CoreIsReset.idle (h : s.CoreIsReset) : s.eng = .idle := by
  obtain ⟨-, -, -, -, -, -, -, -, -, hidle⟩ := h
  exact hidle

/-- STATUS reads as at reset (R33). -/
theorem State.CoreIsReset.statusWord (h : s.CoreIsReset) : s.statusWord = 0 := by
  obtain ⟨-, -, -, -, hkv, hkdir, hksize, hovr, herr, hidle⟩ := h
  exact (statusWord_congr (t := State.reset) herr hovr hksize hkdir hkv (by rw [hidle]; rfl)).trans (by decide)

/-- An admitted access while reset is asserted. -/
theorem step_of_access_inReset {a : Access} {rest : List Input} (hm : s.InputMoves)
    (hi : s.inputs = .access a :: rest) (hr : s.inReset = true) (ha : a.admitted = true) :
    step s = .next (s.inputTaken.performInReset a) := by
  simp [step_of_input hm hi, State.input, ha, hr]

/-! ### The end of a host run (R121) -/

theorem HostRun.ended_iff (h : HostRun) : h.ended = true ↔ h.issuedLastAccess = true ∧ h.core.eng = .idle := by
  have hbusy : h.core.eng.isBusy = false ↔ h.core.eng = .idle := by cases h.core.eng <;> simp [Engine.isBusy]
  simp [HostRun.ended, hbusy]

/-- Whether an access comes does not depend on the core, nor on where the host stands but through the line asked of. -/
@[simp] theorem HostRun.accessWithin_withCore (h : HostRun) (c : State) (n l : Nat) :
    HostRun.accessWithin { h with core := c } n l = h.accessWithin n l :=
  HostRun.accessWithin_congr (h := { h with core := c }) (g := h) rfl rfl n l

@[simp] theorem HostRun.accessWithin_withLine (h : HostRun) (line n l : Nat) :
    HostRun.accessWithin { h with line := line } n l = h.accessWithin n l :=
  HostRun.accessWithin_congr (h := { h with line := line }) (g := h) rfl rfl n l

theorem HostRun.issuedLastAccess_iff (h : HostRun) :
    h.issuedLastAccess = true ↔ h.accessWithin h.program.length h.line = false := by
  rw [HostRun.issuedLastAccess, Bool.not_eq_true']

theorem HostRun.step_engine_of_idle {h : HostRun} (hidle : h.core.eng = .idle) :
    h.step .engine = .next { h with core := { h.core with turns := [] } } := by
  have hstep : Machine.step { h.core with turns := [.engine] } = .next { h.core with turns := [] } :=
    (step_engine (s := { h.core with turns := [.engine] }) (.inl rfl)).trans (engineTurn_idle hidle)
  rw [HostRun.step, hstep, HostRun.after]

/-- A turn after the end: the host goes on among lines that are no access, and the core only uses the turn up. -/
theorem HostRun.step_of_ended {h : HostRun} (he : h.ended = true) (turn : Turn) :
    ∃ t, h.step turn = .next t ∧ t.ended = true ∧ t.temps = h.temps ∧
      t.core = { h.core with turns := t.core.turns } := by
  obtain ⟨hlast, hidle⟩ := h.ended_iff.mp he
  have hnone := h.issuedLastAccess_iff.mp hlast
  cases turn with
  | engine =>
    exact ⟨_, HostRun.step_engine_of_idle hidle,
      (HostRun.ended_iff _).mpr ⟨by simpa [HostRun.issuedLastAccess_iff] using hnone, hidle⟩, rfl, rfl⟩
  | input =>
    obtain ⟨hline, hafter⟩ := h.accessWithin_lineAfter hnone
    exact ⟨_, h.step_input_of_no_access hline,
      (HostRun.ended_iff _).mpr ⟨by simpa [HostRun.issuedLastAccess_iff] using hafter, hidle⟩, rfl, rfl⟩

/-- The same for any turns. -/
theorem HostRun.runTurns_of_ended (ts : List Turn) {h : HostRun} (he : h.ended = true) :
    ∃ t, HostRun.runTurns ts h = .next t ∧ t.ended = true ∧ t.temps = h.temps ∧
      t.core = { h.core with turns := t.core.turns } := by
  induction ts generalizing h with
  | nil => exact ⟨h, rfl, he, rfl, rfl⟩
  | cons turn ts ih =>
    obtain ⟨h', hstep, he', htemps, hcore⟩ := HostRun.step_of_ended he turn
    obtain ⟨t, hrun, het, htemps', hcore'⟩ := ih he'
    refine ⟨t, (HostRun.runTurns_cons ts hstep).trans hrun, het, htemps'.trans htemps, ?_⟩
    rw [hcore', hcore]

/-- Where an access comes within `n` lines, the host's own turns bring it there. -/
theorem HostRun.runTurns_to_access (n : Nat) {h : HostRun} (ha : h.accessWithin n h.line = true) :
    ∃ k t line, HostRun.runTurns (List.replicate k .input) h = .next t ∧ t.core = h.core ∧
      t.program[t.line]? = some line ∧ line.isAccess = true := by
  induction n generalizing h with
  | zero => cases ha
  | succ n ih =>
    cases hat : h.accessAt h.line with
    | true =>
      obtain ⟨line, hline, hacc⟩ := (Option.any_eq_true _ _).mp hat
      exact ⟨0, h, line, rfl, rfl, hline, hacc⟩
    | false =>
      obtain ⟨-, hrest⟩ : h.line < h.program.length ∧ h.accessWithin n (h.lineAfter h.line) = true := by
        simpa [h.accessWithin_succ, hat] using ha
      obtain ⟨k, t, line, hrun, hcore, hline, hacc⟩ :=
        ih (h := { h with line := h.lineAfter h.line }) (by rwa [HostRun.accessWithin_withLine])
      exact ⟨k + 1, t, line, (HostRun.runTurns_cons _ (h.step_input_of_no_access hat)).trans hrun, hcore, hline, hacc⟩

/-! ### The obligations -/

/-- Settles O6: the engine's step is the completion of the word in SNAP. -/
theorem stepRunsDecodedCommand : Obligations.StepRunsDecodedCommand := fun _ _ _ hm hb hd =>
  (step_of_busy hm hb).trans (complete_of_instr hd _)

/-- Settles O7: it is the clause on acceptance of what is said of illegal words, since acceptance does not decode. -/
theorem idleWriteIsAccepted : Obligations.IdleWriteIsAccepted := by
  obtain ⟨-, haccepted, -⟩ := illegalWordReportsCodeFour
  exact haccepted

/-- Settles O8: a write to CTRL while BUSY is dropped. -/
theorem busyWriteIsDropped : Obligations.BusyWriteIsDropped := by
  intro s snap v rest hm hi hr hb
  rw [step_of_write hm hi hr rfl, busWrite_ctrl_busy v (by simp [hb])]
  rfl

/-- Settles O9: the writes are the slots', and KEY and DIN are unseen by every command but CLEAR, which erases them. -/
theorem busyOperandWrites : Obligations.BusyOperandWrites := by
  refine ⟨?writes, ?completion, ?later, ?clear⟩
  case writes =>
    intro s snap off v rest hm hi hr _
    refine ⟨fun j hj => ?_, fun j hj => ?_, fun hoff => ?_⟩
    · rw [step_of_write hm hi hr (by omega), busWrite_key _ v j hj]
      rfl
    · rw [step_of_write hm hi hr (by omega), busWrite_din _ v j hj]
      rfl
    · obtain rfl : off = 0x04 := Fin.ext hoff
      rw [step_of_write hm hi hr rfl, busWrite_status]
      rfl
  case completion =>
    intro i s t key din hi h
    exact ⟨(unseen_operands key din).exec (fun hclear => absurd hclear hi) h, exec_keeps_key_din hi h⟩
  case later =>
    intro s v hidle
    have hoffer : s.offer v = s.accept v := busWrite_ctrl_idle v hidle
    rw [hoffer, State.accept_eng]
  case clear =>
    intro s t h
    obtain ⟨-, -, rfl⟩ := execClear_next h
    exact ⟨rfl, rfl⟩

/-- Settles O10: each draw is the two steps in its order, since the completion does not depend on the world outside. -/
theorem readRacesCompletion : Obligations.ReadRacesCompletion := by
  intro s t snap off rest ts hb hr ha hi h
  obtain ⟨-, -, hrt⟩ := complete_frame h
  have hdrawn (ts : List Turn) :
      { s with turns := ts } = s.withWorld ts (.access (.read .b32 off) :: rest) s.reads := by rw [← hi]; rfl
  rw [hdrawn, hdrawn]
  exact ⟨⟨_, (run_succ 1 (step_read_withWorld hr ha)).trans (run_succ 0 (step_complete_withWorld hb h)), rfl⟩,
    ⟨_, (run_succ 1 (step_complete_withWorld hb h)).trans (run_succ 0 (step_read_withWorld (hrt.trans hr) ha)), rfl⟩⟩

/-- Settles O11: the host's turns that come first leave the command in flight, and the engine's then completes it. -/
theorem commandInFlightCompletes : Obligations.CommandInFlightCompletes := by
  intro s snap hs hadm hno hb
  obtain ⟨k, s', hk, hrun, hf, hm⟩ := State.Flying.reaches_engine ⟨hs, hadm, hno, hb⟩
  obtain ⟨t, hstep, hidle⟩ := hf.step_engine hm
  exact ⟨k, s', t, hk, hrun, hf.busy, hm, hstep, hidle⟩

/-- Settles O20: each input in turn; while reset is asserted R112's invariant says that the core is that of R33. -/
theorem resetInput : Obligations.ResetInput := by
  refine ⟨?assert, ?write, ?read, ?engine, ?release⟩
  case assert =>
    intro s rest hm hi
    exact ⟨_, step_of_input hm hi, assertReset_coreIsReset _, rfl, by simp [hi], rfl, rfl, rfl⟩
  case write =>
    intro s off v rest hm hi ha hr
    exact step_of_access_inReset hm hi hr ((admitted_iff _).mpr ⟨rfl, ha⟩)
  case read =>
    intro s off rest hm hi ha hr
    exact ⟨_, step_of_access_inReset hm hi hr ((admitted_iff _).mpr ⟨rfl, ha⟩)⟩
  case engine =>
    intro s hs hr hm
    exact (step_engine hm).trans (engineTurn_idle (hs.reset_held hr).idle)
  case release =>
    intro s rest hm hi hs hr
    have hreset : s.inputTaken.releaseReset.CoreIsReset := hs.reset_held hr
    exact ⟨_, step_of_input hm hi, rfl, hreset, hreset.statusWord, fun v => busWrite_ctrl_idle v hreset.idle⟩

/-- Settles O55: turns after the end find no access and an idle engine, and before it the host's own turns come to the
access that is left. -/
theorem runEndIsFinal : Obligations.RunEndIsFinal :=
  ⟨HostRun.ended_iff, fun _ ts he => HostRun.runTurns_of_ended ts he, fun h hlast =>
    HostRun.runTurns_to_access h.program.length (by simpa [HostRun.issuedLastAccess] using hlast)⟩

end Sys2Proof.Machine
end
